-- ==== Sys2Proof/Word.lean ====
section
/-! DEFINITION. The word types of the block, by the widths of 00_scope.md R9 and R12. -/

namespace Sys2Proof

/-- A 32-bit word: the ports `a`, `b` and `y` and the nets `ma`, `mb0`, `mb` and `sum` (R9, R28, R30). -/
abbrev Word := BitVec 32

/-- An 8-bit two's-complement value: the signed exponents `ea` and `eb` (R9 `EA_W`). -/
abbrev S8 := BitVec 8

/-- A 9-bit two's-complement value: `delta` and `e_adj` (R9 `DELTA_W`, `EADJ_W`). -/
abbrev S9 := BitVec 9

/-- The transaction word PAIR64, `T = {a, b}` (R67). -/
abbrev Pair64 := BitVec 64

/-- What the shifter does with `b` and a `delta` outside [0, 31]: any total function of the two (R10). -/
abbrev OorShift := Word → S9 → Word

end Sys2Proof
end

