-- ==== Sys2Proof/Syntax.lean ====
section
/-! DEFINITION. The instructions: one constructor per row of spec/opcode_table.json. -/

namespace Sys2Proof

/-- The block's operations. There is exactly one, which the source also calls `add` and PackedFloatAdd
(00_scope.md R2, 30_encoding.md R68). -/
inductive Instr where
  /-- `ADDFLT y, a, b` (R72, R94): the full-word values of the two packed-word operands (R60, R67). -/
  | addflt (a b : Word)
  deriving DecidableEq, Repr

end Sys2Proof
end

