-- ==== Sys2Proof/Decode.lean ====
section
/-! DEFINITION. The transaction word PAIR64: its fields, the decoder and the encoder (30_encoding.md R67 to R71). -/

namespace Sys2Proof

/-- Field `A`, T[63:32]: the full-word value of operand a (R67). -/
def Pair64.fieldA (T : Pair64) : Word := T.extractLsb' 32 32

/-- Field `B`, T[31:0]: the full-word value of operand b (R67). -/
def Pair64.fieldB (T : Pair64) : Word := T.extractLsb' 0 32

/-- Field `EA`, T[63:56]: the exponent field of a, overlapping `A` (R67, R61). -/
def Pair64.fieldEA (T : Pair64) : BitVec 8 := T.extractLsb' 56 8

/-- Field `EB`, T[31:24]: the exponent field of b, overlapping `B` (R67, R61). -/
def Pair64.fieldEB (T : Pair64) : BitVec 8 := T.extractLsb' 24 8

/-- The opcode map (R68): match 0 and mask 0, so every transaction word selects ADDFLT and none is
reserved or illegal (R70). -/
def decode (T : Pair64) : Instr :=
  .addflt T.fieldA T.fieldB

/-- The transaction word of an instruction, `T = {a, b}` (R67). -/
def encode : Instr → Pair64
  | .addflt a b => a ++ b

/-- Why a bit string is no transaction word. -/
inductive DecodeError where
  /-- Not 64 bits: every transaction has the single PAIR64 form, none is compressed, variable in length or
  prefixed (R71). -/
  | notPair64 (nbits : Nat)
  deriving DecidableEq, Repr

/-- The decoder on a string of any number of bits: 64 bits are a transaction word, and a shorter or a longer
string is rejected by name (R71). -/
def decodeBits (nbits w : Nat) : Except DecodeError Instr :=
  if nbits = 64 then .ok (decode (BitVec.ofNat 64 w)) else .error (.notPair64 nbits)

/-- The decoder on a row of spec/opcode_table.json, whose numbering of the bits is R67's own: bit 0 of
the table's number is bit 0 of T. -/
def decodeTableWord (nbits w : Nat) : Option Instr :=
  match decodeBits nbits w with
  | .ok i => some i
  | .error _ => none

end Sys2Proof
end

