-- ==== Sys2Proof/Machine/Flags.lean ====
section
/-! DEFINITION. The adder and the zero detector. The block has NO flags (10_state.md R23): the carry is
discarded, and `nz` is a net that drives the exponent multiplexer. -/

namespace Sys2Proof.Machine

/-- Integer adder (R90): the unsigned sum modulo 2^32; the carry out of bit 31 is discarded (R122). -/
def adder (ma mb : Word) : Word :=
  ma + mb

/-- Zero detector (R91): 1 when any of the 32 bits of the sum is set, exponent bits included. -/
def zeroDetector (sum : Word) : Bool :=
  decide (sum ≠ 0#32)

end Sys2Proof.Machine
end

