-- ==== Sys2Proof/Config.lean ====
section
/-! DEFINITION. The block's design-time parameters (00_scope.md R9, R10; 70_reset_and_hazards.md R146). -/

namespace Sys2Proof

/-- The named values of `OOR_SHIFT_POLICY` (R9, R10): what the shifter does when `delta` is outside [0, 31]. -/
inductive OorShiftPolicy where
  /-- Left shift for `delta` in [−31, −1], zero for |`delta`| ≥ 32: this hardware (R87). -/
  | satBidir
  /-- Right shift by `delta` mod 32: the named alternative, not this hardware (R88). -/
  | mask5
  deriving DecidableEq, Repr

/-- `OOR_SHIFT_POLICY` of this hardware (R9, R10, R24): fixed at design time, no register. -/
def Config.oorShiftPolicy : OorShiftPolicy := .satBidir

/-- `BIAS` (R9, R62), at the width of the subtraction of R83. -/
def Config.bias : S9 := 128#9

/-- `EXP_LO` (R9): the lowest bit of the exponent field. -/
def Config.expLo : Nat := 24

/-- `T_PROP` (R146, decision D11): the propagation delay of a realisation, an open parameter that no rule
reads. It has no body: no value and no unit is known. -/
opaque Config.tProp : Nat

end Sys2Proof
end

