-- ==== Sys2Proof/Machine/Operands.lean ====
section
/-! DEFINITION. Operand assembly: the packed word's fields, its exponent, and the exponent difference
(30_encoding.md R60 to R62, R69; 40_addflt.md R82 to R85). -/

namespace Sys2Proof.Machine

/-- The exponent field E, bits 31 to 24 of a packed word (R60). The full-word value is the word itself:
nothing is masked out of it (R61, R82). -/
def exponentField (w : Word) : BitVec 8 :=
  w.extractLsb' Config.expLo 8

/-- Exponent extractor with bias (R62, R83, R84): the byte is widened to nine bits BEFORE the bias is
subtracted (90_conflicts.md C1), and the difference is held as s8. -/
def exponent (w : Word) : S8 :=
  ((exponentField w).setWidth 9 - Config.bias).setWidth 8

/-- Exponent subtractor (R85): the difference of the sign-extended exponents, as s9. -/
def exponentDifference (ea eb : S8) : S9 :=
  ea.signExtend 9 - eb.signExtend 9

end Sys2Proof.Machine
end

