-- ==== Sys2Proof/Machine/Shifter.lean ====
section
/-! DEFINITION. The bit-pattern shifter and its out-of-range policies (40_addflt.md R86 to R89). -/

namespace Sys2Proof.Machine

/-- `SAT_BIDIR` outside [0, 31] (R87): left by |`delta`| for `delta` in [−31, −1], else full shift-out. -/
def satBidirOor : OorShift := fun mb0 delta =>
  if -31 ≤ delta.toInt ∧ delta.toInt ≤ -1 then mb0 <<< (-delta.toInt).toNat else 0#32

/-- `MASK5` outside [0, 31] (R88): right by `delta` mod 32, the low five bits of the s9 pattern. -/
def mask5Oor : OorShift := fun mb0 delta =>
  mb0 >>> (delta.extractLsb' 0 5).toNat

/-- The out-of-range function of each named policy (R10). -/
def outOfRange : OorShiftPolicy → OorShift
  | .satBidir => satBidirOor
  | .mask5 => mask5Oor

/-- The shifter. In range (R86) it is a logical right shift whatever the policy; outside, `oor` answers.
It branches on the range of `delta`, as R110 requires. -/
def shifter (oor : OorShift) (mb0 : Word) (delta : S9) : Word :=
  if 0 ≤ delta.toInt ∧ delta.toInt ≤ 31 then mb0 >>> delta.toInt.toNat else oor mb0 delta

end Sys2Proof.Machine
end

