-- ==== Sys2Proof/Machine/Datapath.lean ====
section
/-! DEFINITION. The ADDFLT datapath: the nets of one evaluation and the operation (40_addflt.md R81 to R94). -/

namespace Sys2Proof.Machine

/-- Exponent incrementer and exponent multiplexer (R92), at nine bits: 127 + 1 is 128. -/
def exponentMux (ea : S8) (nz : Bool) : S9 :=
  if nz then ea.signExtend 9 + 1#9 else ea.signExtend 9

/-- Output sign-extender (R93): the adjusted exponent's 32-bit two's-complement pattern. -/
def outputExtender (eAdj : S9) : Word :=
  eAdj.signExtend 32

/-- The internal nets of one evaluation (10_state.md R30, 00_scope.md R15). They are no state. -/
structure Nets where
  ma : Word
  mb0 : Word
  ea : S8
  eb : S8
  delta : S9
  mb : Word
  sum : Word
  nz : Bool
  eAdj : S9
  y : Word
  deriving DecidableEq, Repr

/-- One evaluation of the network (R81, R94), over any out-of-range shift: every unit is evaluated, in
the source's step order. -/
def evaluate (oor : OorShift) (a b : Word) : Nets :=
  let ma := a
  let mb0 := b
  let ea := exponent a
  let eb := exponent b
  let delta := exponentDifference ea eb
  let mb := shifter oor mb0 delta
  let sum := adder ma mb
  let nz := zeroDetector sum
  let eAdj := exponentMux ea nz
  let y := outputExtender eAdj
  { ma, mb0, ea, eb, delta, mb, sum, nz, eAdj, y }

/-- The operation with the out-of-range shift as a parameter (R10, R94). -/
def addfltWith (oor : OorShift) (a b : Word) : Word :=
  (evaluate oor a b).y

/-- ADDFLT of this hardware (R94): `OOR_SHIFT_POLICY` is `SAT_BIDIR` (R87). -/
def addflt (a b : Word) : Word :=
  addfltWith (outOfRange Config.oorShiftPolicy) a b

end Sys2Proof.Machine
end

