-- ==== Sys2Proof/Machine/Script.lean ====
section
/-! DEFINITION. Transaction scripts, the host's programs, as data (30_encoding.md R73). -/

namespace Sys2Proof.Machine

/-- What a script line may name as an operand (R72, R73). -/
inductive ScriptOperand where
  /-- A 32-bit literal. -/
  | lit (w : Word)
  /-- `yK`: the result of line K, fed back to a port by the host. -/
  | result (k : Nat)
  /-- The y of the transaction just completed: what a repeated line feeds back
  (95_test_vectors.md 4.2, "each time with a = the previous y"; log entry 4). -/
  | previous
  deriving DecidableEq, Repr

/-- One line `tN: ADDFLT yN, a, b`, with the host-side `repeat n` (R73). A line without a repeat has
`times` 1. -/
structure ScriptLine where
  label : Nat
  a : ScriptOperand
  b : ScriptOperand
  times : Nat
  deriving DecidableEq, Repr

end Sys2Proof.Machine
end

