-- ==== Sys2Proof/Machine/State.lean ====
section
/-! DEFINITION. The machine's state, the reasons a step can stop, and the state after reset. -/

namespace Sys2Proof.Machine

/-- The model's faults. The block itself raises no exception (60_exceptions.md R120). -/
inductive Fault where
  /-- y was read before both inputs carried a value: it has none, and the spec makes the read a fault (R32,
  R134, R141, U4). Raised by `State.readY` and `State.samplePort`, and by a step whose script line feeds back the
  previous y. SAFE: the model stops where a chip would show some value (92_eei_decisions.md D9). -/
  | noTransaction
  deriving DecidableEq, Repr

/-- The model's refusals. -/
inductive Refusal where
  /-- No meaning for the instruction named. No arm of `exec` answers so: ADDFLT is modelled. SAFE. -/
  | notModelled (mnemonic : String)
  /-- A script line names the result of line `k`, and the host has none: R73 lets an operand name only
  an EARLIER result. Raised by a step that runs such a line, never by the block. SAFE: no transaction
  is applied. -/
  | notEarlierResult (k : Nat)
  /-- The port y was sampled in the middle of a change, with one operand moved and the other not: U6
  (93_implementation_defined.md) says `refuse`, the model has no mixed-operand observation (R145, D2).
  Raised by `State.samplePort`. SAFE: no claim about such a sample can be proved. -/
  | operandsChanging
  deriving DecidableEq, Repr

/-- The two input ports (R28). -/
inductive Port where
  | a
  | b
  deriving DecidableEq, Repr

/-- What the model holds. The block has NO architectural state (10_state.md R20): the first three fields
are its ports, the items that R31 lists beside the absent state; `last` is the one field R32 allows a
model; `moved` says which port a host that changes its operands at different moments (R145) has driven; the
last two belong to the host that runs transaction scripts (R73). -/
structure State where
  /-- Input port `a`; `none` while it carries no defined value (R28, R31, R141). -/
  a : Option Word
  /-- Input port `b`; `none` while it carries no defined value (R28, R31, R141). -/
  b : Option Word
  /-- Output port `y`: it follows the input ports at once (R141, R144), and carries no value until both do
  (R31). No register (R20): no evaluation reads it (log entry 1). -/
  y : Option Word
  /-- The operand pair of the most recent transaction (R32); `none` before the first one. -/
  last : Option (Word × Word)
  /-- The input port that was driven alone since the most recent pair was complete on the ports; `none` when
  none was (R145; log entry 9). -/
  moved : Option Port
  /-- The host's script: the lines not yet run, first the next one (R73). -/
  script : List ScriptLine
  /-- The results the host keeps: line number and y, newest first (R73). -/
  results : List (Nat × Word)
  deriving DecidableEq, Repr

/-- The machine after reset (R31, R140): no port carries a value, no transaction has been applied (R32,
R141), and the host has moved no operand and has no script and no results (log entry 3). -/
def State.reset : State :=
  { a := none, b := none, y := none, last := none, moved := none, script := [], results := [] }

end Sys2Proof.Machine
end

