-- ==== Sys2Proof/Machine/Ops.lean ====
section
/-! DEFINITION. The named operations on the ports, on the completed transaction and on the host's record. -/

namespace Sys2Proof.Machine

/-- Run `f` on the value of an outcome; a fault or a refusal stays as it is. -/
def andThen {σ τ : Type} (o : Host.Outcome σ Fault Refusal) (f : σ → Host.Outcome τ Fault Refusal) :
    Host.Outcome τ Fault Refusal :=
  match o with
  | .next s => f s
  | .fault r => .fault r
  | .refused r => .refused r

/-- The operand pair that two input ports carry; none until BOTH carry a defined value (R141). -/
def portPair : Option Word → Option Word → Option (Word × Word)
  | some a, some b => some (a, b)
  | _, _ => none

/-- What the output port carries: ADDFLT of the values on the input ports, at once (R141, R144). -/
def portOutput (a b : Option Word) : Option Word :=
  (portPair a b).map fun p => addflt p.1 p.2

/-- The operand pair on the ports of a state. -/
def State.pair (s : State) : Option (Word × Word) := portPair s.a s.b

/-- The pair (a, b) stands on the ports and is the most recent one: a transaction on it applies the same pair
again (R45). -/
def State.holds (s : State) (a b : Word) : Bool := s.pair == some (a, b) && s.last == some (a, b)

/-- A transaction (R17): the pair (a, b) is on the input ports, the word `y` computed from it is on the
output port, and the pair becomes the most recent one (R32). The same pair again changes nothing else (R45);
a new one ends the change that brought it (log entry 9). -/
def State.complete (s : State) (a b y : Word) : State :=
  { s with
    a := some a, b := some b, y := some y, last := some (a, b)
    moved := if s.holds a b then s.moved else none }

/-- The environment presents both operands together: that IS the transaction (decision D2, R44), and y
follows at once (R141). Both operands are there, so no port is moved alone any more (log entry 9). -/
def State.present (s : State) (a b : Word) : State := { s.complete a b (addflt a b) with moved := none }

/-- The environment drives input port `a` alone (R145). When it has driven `b` alone before, both operands of
the new pair are there and the pair is complete; until then the change is in progress (log entry 9). The
output follows in either case (R144). -/
def State.driveA (s : State) (w : Word) : State :=
  match s.moved, s.b with
  | some .b, some b => s.present w b
  | _, _ => { s with a := some w, y := portOutput (some w) s.b, moved := some .a }

/-- The environment drives input port `b` alone: `State.driveA` with the ports exchanged. -/
def State.driveB (s : State) (w : Word) : State :=
  match s.moved, s.a with
  | some .a, some a => s.present a w
  | _, _ => { s with b := some w, y := portOutput s.a (some w), moved := some .b }

/-- A change of operands is in progress: the ports carry something else than the most recent pair (R145). -/
def State.changing (s : State) : Bool :=
  s.last.isSome && s.last != s.pair

/-- The operand pair on the ports as a transaction word `T = {a, b}` (R67). A pair whose change is still in
progress is no transaction (R44, R145). -/
def State.portWord (s : State) : Option Pair64 :=
  if s.changing then none else s.pair.map fun p => p.1 ++ p.2

/-- The answer to a read of y: the word, or the model's one fault where y has no value (R134, R141). -/
def answerY : Option Word → Host.Outcome Word Fault Refusal
  | some y => .next y
  | none => .fault .noTransaction

/-- The y of the most recent transaction, read as `addflt` of that pair; a fault before the first (R32). -/
def State.readY (s : State) : Host.Outcome Word Fault Refusal :=
  answerY (s.last.map fun p => addflt p.1 p.2)

/-- The output port y, sampled at any moment. In the middle of a change of operands the observation is
refused (R145, U6). -/
def State.samplePort (s : State) : Host.Outcome Word Fault Refusal :=
  if s.changing then .refused .operandsChanging else answerY s.y

/-- The host keeps a result under its line's number (R73). -/
def State.keepResult (s : State) (label : Nat) (y : Word) : State :=
  { s with results := (label, y) :: s.results }

/-- The host turns to the rest of its script (R73). -/
def State.setScript (s : State) (script : List ScriptLine) : State := { s with script := script }

/-- The word that the host holds for a script operand (R72, R73): a literal, the newest result kept
under a line's number, or the y it reads from the block. -/
def State.operandWord (s : State) : ScriptOperand → Host.Outcome Word Fault Refusal
  | .lit w => .next w
  | .result k =>
    match s.results.find? (fun r => r.1 == k) with
    | some r => .next r.2
    | none => .refused (.notEarlierResult k)
  | .previous => s.readY

/-- A host loads a transaction script (R73); the block knows nothing of it. -/
def State.load (script : List ScriptLine) : State := State.reset.setScript script

end Sys2Proof.Machine
end

