-- ==== Sys2Proof/Machine/Addflt.lean ====
section
/-! DEFINITION. The meaning of the one instruction (40_addflt.md R94). -/

namespace Sys2Proof.Machine

/-- ADDFLT (R94): the transaction on (a, b), with the datapath's y on the output port. It completes for
every operand pair (R134); no flag is written and no exception is taken (R94). -/
def execAddflt (a b : Word) (s : State) : Host.Outcome State Fault Refusal :=
  .next (s.complete a b (addflt a b))

end Sys2Proof.Machine
end

