-- ==== Sys2Proof/Machine/Driver.lean ====
section
/-! DEFINITION. One evaluation of the ports, and one line of the host's script (30_encoding.md R68, R73). -/

namespace Sys2Proof.Machine

/-- The block evaluates the pair its ports carry: the transaction word is decoded and its instruction
executed (R68, R144). Until both ports carry a value (R141), and while a change of operands is in progress
(R145), there is no transaction, and nothing changes (log entry 2). -/
def State.transact (s : State) : Host.Outcome State Fault Refusal :=
  match s.portWord with
  | some T => exec (decode T) s
  | none => .next s

/-- What remains of a script when its first line has been run once. -/
def scriptAfter (l : ScriptLine) (rest : List ScriptLine) : List ScriptLine :=
  match l.times with
  | 0 => rest
  | 1 => rest
  | n + 2 => { l with times := n + 1 } :: rest

/-- The host runs the first line of its script once: it fetches both operands, presents them together,
lets the block evaluate them, reads y and keeps it under the line's number (R73, R44). A line with no
repetition left is passed over. DESIGN CHOICE: operand a is fetched before b, so that where neither can be
fetched the stop is a's (log entry 7). -/
def State.runLine (s : State) (l : ScriptLine) (rest : List ScriptLine) : Host.Outcome State Fault Refusal :=
  if l.times = 0 then .next (s.setScript rest)
  else
    andThen (s.operandWord l.a) fun a =>
    andThen (s.operandWord l.b) fun b =>
    andThen ((s.present a b).setScript (scriptAfter l rest)).transact fun t =>
    andThen t.readY fun y =>
    .next (t.keepResult l.label y)

/-- Store a transaction word where the next step fetches it: on the two ports. The host's script would
present its own operands first, so it is cleared (log entry 5). A string that is not 64 bits long is no
transaction (R71) and is not placed. -/
def State.onPorts (s : State) (nbits w : Nat) : State :=
  if nbits = 64 then
    (s.present (Pair64.fieldA (BitVec.ofNat 64 w)) (Pair64.fieldB (BitVec.ofNat 64 w))).setScript []
  else s

end Sys2Proof.Machine
end

