-- ==== Sys2Proof/Machine/Step.lean ====
section
/-! DEFINITION. The step: one line of the host's script, or, with none left, one evaluation of the ports. -/

namespace Sys2Proof.Machine

/-- One step. The host's next script line runs if there is one (R73); otherwise the block evaluates what
its ports carry (R144). -/
def step (s : State) : Host.Outcome State Fault Refusal :=
  match s.script with
  | l :: rest => s.runLine l rest
  | [] => s.transact

/-- The state in which the next step runs exactly the transaction word `w` (`nbits` is 64, the
one width of spec/opcode_table.json). -/
def State.withFetchWord (s : State) (nbits w : Nat) : State := s.onPorts nbits w

end Sys2Proof.Machine
end

