-- ==== Sys2Proof/Machine/Asm.lean ====
section
/-! DEFINITION. The written form of transactions, results and script lines (30_encoding.md R72, R73). A text
is a list of characters. -/

namespace Sys2Proof.Machine

/-- One hexadecimal digit. -/
def hexDigit (n : BitVec 4) : Char :=
  ['0', '1', '2', '3', '4', '5', '6', '7', '8', '9', 'A', 'B', 'C', 'D', 'E', 'F'].getD n.toNat '0'

/-- The value of a hexadecimal digit; capitals, as R72 writes them. -/
def hexValue (c : Char) : Option (BitVec 4) :=
  (['0', '1', '2', '3', '4', '5', '6', '7', '8', '9', 'A', 'B', 'C', 'D', 'E', 'F'].findIdx? (· == c)).map
    (BitVec.ofNat 4)

/-- A 32-bit literal `0xHHHHHHHH` (R72): eight digits, the most significant first. -/
def renderWord (w : Word) : List Char :=
  ['0', 'x',
    hexDigit (w.extractLsb' 28 4), hexDigit (w.extractLsb' 24 4), hexDigit (w.extractLsb' 20 4),
    hexDigit (w.extractLsb' 16 4), hexDigit (w.extractLsb' 12 4), hexDigit (w.extractLsb' 8 4),
    hexDigit (w.extractLsb' 4 4), hexDigit (w.extractLsb' 0 4)]

/-- Read exactly eight hexadecimal digits, and give back the rest of the text. -/
def readDigits : Nat → Word → List Char → Option (Word × List Char)
  | 0, acc, cs => some (acc, cs)
  | _ + 1, _, [] => none
  | n + 1, acc, c :: cs =>
    match hexValue c with
    | some d => readDigits n (acc <<< 4 ||| d.setWidth 32) cs
    | none => none

/-- Read a given prefix. -/
def readPrefix : List Char → List Char → Option (List Char)
  | [], cs => some cs
  | _ :: _, [] => none
  | p :: ps, c :: cs => if p = c then readPrefix ps cs else none

/-- Read a 32-bit literal. -/
def readWord (cs : List Char) : Option (Word × List Char) :=
  match readPrefix ['0', 'x'] cs with
  | some rest => readDigits 8 0#32 rest
  | none => none

/-- `ADDFLT y, a, b` with literal operands (R72). -/
def renderInstr : Instr → List Char
  | .addflt a b =>
    ['A', 'D', 'D', 'F', 'L', 'T', ' ', 'y', ',', ' '] ++ renderWord a ++ [',', ' '] ++ renderWord b

/-- Read `ADDFLT y, a, b` with literal operands, and nothing after it (R72: there are no
pseudo-instructions). -/
def readInstr (cs : List Char) : Option Instr := do
  let cs ← readPrefix ['A', 'D', 'D', 'F', 'L', 'T', ' ', 'y', ',', ' '] cs
  let (a, cs) ← readWord cs
  let cs ← readPrefix [',', ' '] cs
  let (b, cs) ← readWord cs
  if cs = [] then some (.addflt a b) else none

/-- A result, `y = 0xHHHHHHHH` (R72). -/
def renderResult (y : Word) : List Char :=
  ['y', ' ', '=', ' '] ++ renderWord y

/-- The decimal digits of a number; `fuel` bounds their count. -/
def decimalDigits : Nat → Nat → List Char
  | 0, _ => []
  | fuel + 1, n =>
    if n < 10 then [hexDigit (BitVec.ofNat 4 n)]
    else decimalDigits fuel (n / 10) ++ [hexDigit (BitVec.ofNat 4 (n % 10))]

/-- A line number or a repeat count. -/
def renderNat (n : Nat) : List Char := decimalDigits (n + 1) n

/-- The value of a decimal digit. -/
def decimalValue (c : Char) : Option Nat :=
  ['0', '1', '2', '3', '4', '5', '6', '7', '8', '9'].findIdx? (· == c)

/-- Read the decimal digits that stand first in a text. -/
def readDecimal (acc : Nat) : List Char → Nat × List Char
  | [] => (acc, [])
  | c :: cs =>
    match decimalValue c with
    | some d => readDecimal (acc * 10 + d) cs
    | none => (acc, c :: cs)

/-- Read a number of at least one digit. -/
def readNat (cs : List Char) : Option (Nat × List Char) :=
  match cs with
  | [] => none
  | c :: rest => if (decimalValue c).isSome then some (readDecimal 0 (c :: rest)) else none

/-- A script operand (R72, R73): a literal, `yK`, or `y` alone for the previous y (log entry 4). -/
def renderOperand : ScriptOperand → List Char
  | .lit w => renderWord w
  | .result k => 'y' :: renderNat k
  | .previous => ['y']

/-- Read a script operand. -/
def readOperand (cs : List Char) : Option (ScriptOperand × List Char) :=
  match cs with
  | 'y' :: rest =>
    match readNat rest with
    | some (k, rest) => some (.result k, rest)
    | none => some (.previous, rest)
  | _ => (readWord cs).map fun r => (.lit r.1, r.2)

/-- A script line `tN: ADDFLT yN, a, b`, with ` repeat n` unless it runs once (R73). -/
def renderLine (l : ScriptLine) : List Char :=
  't' :: renderNat l.label ++ [':', ' ', 'A', 'D', 'D', 'F', 'L', 'T', ' ', 'y'] ++ renderNat l.label ++
    [',', ' '] ++ renderOperand l.a ++ [',', ' '] ++ renderOperand l.b ++
    (if l.times = 1 then [] else [' ', 'r', 'e', 'p', 'e', 'a', 't', ' '] ++ renderNat l.times)

/-- Read the end of a line: nothing, or the host-side repeat. -/
def readRepeat (cs : List Char) : Option Nat :=
  if cs = [] then some 1
  else do
    let cs ← readPrefix [' ', 'r', 'e', 'p', 'e', 'a', 't', ' '] cs
    let (n, cs) ← readNat cs
    if cs = [] then some n else none

/-- Read a script line; its two numbers must agree (R73: line `tN` names the result `yN`). -/
def readLine (cs : List Char) : Option ScriptLine := do
  let cs ← readPrefix ['t'] cs
  let (n, cs) ← readNat cs
  let cs ← readPrefix [':', ' ', 'A', 'D', 'D', 'F', 'L', 'T', ' ', 'y'] cs
  let (m, cs) ← readNat cs
  let cs ← readPrefix [',', ' '] cs
  let (a, cs) ← readOperand cs
  let cs ← readPrefix [',', ' '] cs
  let (b, cs) ← readOperand cs
  let times ← readRepeat cs
  if n = m then some { label := n, a := a, b := b, times := times } else none

end Sys2Proof.Machine
end

