-- ==== Sys2Proof/Machine/Gates.lean ====
section
/-! DEFINITION. The gate-level realisations that the spec gives beside the arithmetic rules (30_encoding.md
R63; 40_addflt.md R81, R87, R91, R92). A second design: the machine does not use it, and a statement says
that it computes the same function. -/

namespace Sys2Proof.Machine

/-- Exponent extractor without a subtractor: an inversion of bit 31 (R63). -/
def gateExponent (w : Word) : S8 :=
  w.extractLsb' 24 8 ^^^ 0x80#8

/-- The shifter's direction, delta[8] (R87): true is left. -/
def gateDirection (delta : S9) : Bool :=
  delta.getLsbD 8

/-- |delta|, at nine bits. -/
def gateMagnitude (delta : S9) : S9 :=
  if gateDirection delta then -delta else delta

/-- One stage of the barrel shifter: by `n` places when its distance bit is set. -/
def gateStage (left on : Bool) (n : Nat) (x : Word) : Word :=
  if on then (if left then x <<< n else x >>> n) else x

/-- The five-stage bidirectional barrel shifter, controlled by a direction and a five-bit distance (R87). -/
def gateBarrel (left : Bool) (distance : BitVec 5) (x : Word) : Word :=
  gateStage left (distance.getLsbD 4) 16 (gateStage left (distance.getLsbD 3) 8
    (gateStage left (distance.getLsbD 2) 4 (gateStage left (distance.getLsbD 1) 2
      (gateStage left (distance.getLsbD 0) 1 x))))

/-- The saturation detect: |delta| ≥ 32, one of its bits 5 to 8 set (R87). -/
def gateSaturates (delta : S9) : Bool :=
  (gateMagnitude delta).extractLsb' 5 4 != 0#4

/-- The SAT_BIDIR shifter as R87 realises it. -/
def gateShifter (mb0 : Word) (delta : S9) : Word :=
  if gateSaturates delta then 0#32
  else gateBarrel (gateDirection delta) ((gateMagnitude delta).extractLsb' 0 5) mb0

/-- The zero detector as the OR of all 32 bits of the sum (R91; log entry 8). -/
def gateZeroDetector (sum : Word) : Bool :=
  (List.range 32).any fun k => sum.getLsbD k

/-- The nine-bit incrementer and the 2:1 multiplexer (R92). -/
def gateExponentMux (ea : S8) (nz : Bool) : S9 :=
  let held : S9 := BitVec.cons ea.msb ea
  bif nz then held + 1#9 else held

/-- The output sign-extender: 23 copies of e_adj[8] above the nine bits of e_adj (R93). -/
def gateOutput (eAdj : S9) : Word :=
  (if eAdj.getLsbD 8 then BitVec.allOnes 23 else 0#23) ++ eAdj

/-- The whole block from its gate-level units (R81). -/
def gateAddflt (a b : Word) : Word :=
  let ea := gateExponent a
  let eb := gateExponent b
  let delta : S9 := BitVec.cons ea.msb ea - BitVec.cons eb.msb eb
  gateOutput (gateExponentMux ea (gateZeroDetector (a + gateShifter b delta)))

end Sys2Proof.Machine
end

