-- ==== Sys2Proof/WellFormed.lean ====
section
/-! DEFINITION. Which instructions and which transaction scripts are well formed. -/

namespace Sys2Proof

/-- Every operand pair is legal: no pattern is reserved or illegal (10_state.md R29, 30_encoding.md R70).
The operands' widths are in their types, so there is no check left to make. -/
def Instr.wf : Instr → Bool
  | .addflt _ _ => true

namespace Machine

/-- An operand names a value the host has: a literal, an EARLIER result (R73), or the previous y (DESIGN CHOICE,
log entry 4) once a transaction has been completed (R141). `labels` are the lines that have a result, `started` says that
some transaction has been completed. -/
def ScriptOperand.available (labels : List Nat) (started : Bool) : ScriptOperand → Bool
  | .lit _ => true
  | .result k => labels.contains k
  | .previous => started

/-- Check 1 of a script: every operand of every line names a value available before the line (R73).
A line run zero times performs no transaction and names no result (DESIGN CHOICE, log entry 4). -/
def operandsEarlier (labels : List Nat) (started : Bool) : List ScriptLine → Bool
  | [] => true
  | l :: rest =>
    if l.times = 0 then operandsEarlier labels started rest
    else l.a.available labels started && l.b.available labels started &&
      operandsEarlier (l.label :: labels) true rest

/-- Check 2 of a script: no two lines have the same number. DESIGN CHOICE (log entry 12): R73 names line `tN`'s
result `yN` and does not say whether two lines may carry one number; a step runs such a script all the same. -/
def labelsDistinct (script : List ScriptLine) : Bool :=
  decide (script.map ScriptLine.label).Nodup

/-- A well-formed transaction script: both checks, from a host that has kept nothing yet. -/
def scriptWf (script : List ScriptLine) : Bool :=
  operandsEarlier [] false script && labelsDistinct script

end Machine

end Sys2Proof
end

