-- ==== Sys2Proof/Safety.lean ====
section
/-! DEFINITION. The terms in which safety is stated: the result's shape, the states a run can reach, and a
run that never stops. -/

namespace Sys2Proof.Machine

/-- The exponent-shaped words (30_encoding.md R65, R66): 0 to 128, or the patterns of −128 to −1. -/
def exponentShaped (y : Word) : Bool :=
  decide (y.toNat ≤ 0x80) || decide (0xFFFFFF80 ≤ y.toNat)

/-- Every result the host has kept is exponent-shaped (R66). -/
def State.resultsShaped (s : State) : Bool :=
  s.results.all fun r => exponentShaped r.2

/-- Some transaction has been completed exactly when both ports carry a value (R31, R141), and a kept
result is the result of a completed transaction. -/
def State.recordSound (s : State) : Bool :=
  s.last.isSome == s.pair.isSome && (s.results.isEmpty || s.last.isSome)

/-- The output port is ADDFLT of the values currently on the input ports, and nothing else (R141, R144). -/
def State.portSound (s : State) : Bool :=
  s.y == portOutput s.a s.b

/-- A port that was driven alone carries a value; when none was, the ports carry the most recent pair (R145). -/
def State.movedSound (s : State) : Bool :=
  match s.moved with
  | none => s.last == s.pair && s.a.isSome == s.b.isSome
  | some .a => s.a.isSome
  | some .b => s.b.isSome

/-- The invariant of the machine. -/
def State.invariant (s : State) : Bool :=
  s.resultsShaped && s.recordSound && s.portSound && s.movedSound

/-- What the host's script may name at this state: the lines that have a result, and the previous y once
a transaction has been completed (R73, R141). -/
def State.scriptReady (s : State) : Bool :=
  operandsEarlier (s.results.map Prod.fst) s.last.isSome s.script

/-- `k` steps of the machine from `s`, stopping at the first fault or refusal: the host's `Core.run`
(`State.run_eq_core`). -/
def State.run : Nat → State → Host.Outcome State Fault Refusal
  | 0, s => .next s
  | k + 1, s => andThen (step s) (State.run k)

/-- A run of any length from `s` answers next at every step: no fault and no refusal (R134). -/
def State.neverStops (s : State) : Prop :=
  ∀ k : Nat, ∃ t : State, State.run k s = .next t

end Sys2Proof.Machine
end

