-- ==== Sys2Proof/Certificates/Slice0/Obligations.lean ====
section
/-! DEFINITION. The statements for the provers, from the numbered rules of spec/. -/

section
open Sys2Proof Sys2Proof.Machine

/-- R62: exp(w) is the zero-extended byte w >> 24 less 128, a signed value in [−128, 127]. -/
def Obligations.ExponentDecode : Prop :=
  ∀ w : Word,
    (exponentField w).toNat = (w >>> 24).toNat ∧ (w >>> 24).toNat ≤ 255 ∧
    (exponent w).toInt = ((w >>> 24).toNat : Int) - 128 ∧
    -128 ≤ (exponent w).toInt ∧ (exponent w).toInt ≤ 127

/-- The spec's own inference from R62 (30_encoding.md, "Its s8 bit pattern is …"): the exponent's s8 pattern is
the exponent field with bit 31 inverted. -/
def Obligations.ExponentInvertsBit31 : Prop :=
  ∀ w : Word,
    exponent w = BitVec.cons (!w.getLsbD 31) (w.extractLsb' 24 7) ∧
    exponent w = exponentField w ^^^ 0x80#8

/-- R69 and R82: the full-word operands pass through unmodified, and the exponents are those of R62. -/
def Obligations.OperandsPassUnmasked : Prop :=
  ∀ (oor : OorShift) (a b : Word),
    (evaluate oor a b).ma = a ∧ (evaluate oor a b).mb0 = b ∧
    (evaluate oor a b).ea = exponent a ∧ (evaluate oor a b).eb = exponent b

/-- R85: delta is the exact signed difference of the exponents, in [−255, 255] with both ends reached. -/
def Obligations.DeltaIsExactDifference : Prop :=
  (∀ (oor : OorShift) (a b : Word),
    (evaluate oor a b).delta.toInt = (evaluate oor a b).ea.toInt - (evaluate oor a b).eb.toInt ∧
    -255 ≤ (evaluate oor a b).delta.toInt ∧ (evaluate oor a b).delta.toInt ≤ 255) ∧
  (∀ oor : OorShift, (evaluate oor 0xFF000000#32 0#32).delta.toInt = 255 ∧
    (evaluate oor 0#32 0xFF000000#32).delta.toInt = -255)

/-- The spec's own inference from R83 and R84 ("Because the bias cancels, delta also equals …"): delta is the
difference of the two exponent bytes. -/
def Obligations.DeltaIsByteDifference : Prop :=
  ∀ (oor : OorShift) (a b : Word),
    (evaluate oor a b).delta.toInt = ((a >>> 24).toNat : Int) - ((b >>> 24).toNat : Int)

/-- R86: for delta in [0, 31] the shifter is a logical right shift of the whole of b, under every policy. -/
def Obligations.InRangeShiftIsLogicalRight : Prop :=
  ∀ (oor : OorShift) (a b : Word), 0 ≤ (evaluate oor a b).delta.toInt → (evaluate oor a b).delta.toInt ≤ 31 →
    (evaluate oor a b).mb = b >>> (evaluate oor a b).delta.toInt.toNat ∧
    (evaluate oor a b).mb.toNat = b.toNat / 2 ^ (evaluate oor a b).delta.toInt.toNat ∧
    ((evaluate oor a b).delta.toInt = 0 → (evaluate oor a b).mb = b)

/-- R87: the shifter of this hardware for every delta, and its realisation by a bidirectional barrel
shifter with a saturation detect. -/
def Obligations.SatBidirShiftRegions : Prop :=
  Config.oorShiftPolicy = .satBidir ∧
  ∀ (mb0 : Word) (delta : S9), -255 ≤ delta.toInt →
    (shifter (outOfRange Config.oorShiftPolicy) mb0 delta).toNat =
      (if 0 ≤ delta.toInt ∧ delta.toInt ≤ 31 then mb0.toNat / 2 ^ delta.toInt.toNat
       else if -31 ≤ delta.toInt ∧ delta.toInt ≤ -1 then mb0.toNat * 2 ^ (-delta.toInt).toNat % 2 ^ 32
       else 0) ∧
    shifter (outOfRange Config.oorShiftPolicy) mb0 delta = gateShifter mb0 delta

/-- R88: MASK5 shifts right by delta mod 32, the low five bits of the s9 pattern; in range it agrees with
R86; and it is not what this hardware does. -/
def Obligations.Mask5ShiftsByDeltaMod32 : Prop :=
  (∀ (mb0 : Word) (delta : S9),
    shifter (outOfRange .mask5) mb0 delta = mb0 >>> (delta.toInt % 32).toNat ∧
    ((delta.extractLsb' 0 5).toNat : Int) = delta.toInt % 32 ∧
    (0 ≤ delta.toInt → delta.toInt ≤ 31 →
      shifter (outOfRange .mask5) mb0 delta = mb0 >>> delta.toInt.toNat)) ∧
  Config.oorShiftPolicy ≠ .mask5

/-- R90 and R91: the sum is modulo 2^32 with the carry lost, and nz is the OR of all 32 bits of the sum. -/
def Obligations.SumWrapsAndZeroIsDetected : Prop :=
  ∀ (oor : OorShift) (a b : Word),
    (evaluate oor a b).sum.toNat = (a.toNat + (evaluate oor a b).mb.toNat) % 2 ^ 32 ∧
    ((evaluate oor a b).nz = true ↔ (evaluate oor a b).sum ≠ 0#32) ∧
    ((evaluate oor a b).nz = true ↔ ∃ k : Nat, k < 32 ∧ (evaluate oor a b).sum.getLsbD k = true)

/-- R92 and R93: the adjusted exponent is ea plus nz, exact in nine bits, the gate-level multiplexer gives
the same, and y is its 32-bit two's-complement pattern. -/
def Obligations.ExponentIsAdjustedAndExtended : Prop :=
  ∀ (oor : OorShift) (a b : Word),
    (evaluate oor a b).eAdj.toInt =
      (if (evaluate oor a b).nz = true then (evaluate oor a b).ea.toInt + 1 else (evaluate oor a b).ea.toInt) ∧
    -128 ≤ (evaluate oor a b).eAdj.toInt ∧ (evaluate oor a b).eAdj.toInt ≤ 128 ∧
    (evaluate oor a b).eAdj = gateExponentMux (evaluate oor a b).ea (evaluate oor a b).nz ∧
    (evaluate oor a b).y = (evaluate oor a b).eAdj.signExtend 32 ∧
    ((evaluate oor a b).y.toNat : Int) = (evaluate oor a b).eAdj.toInt % 2 ^ 32

/-- R94 in integer arithmetic: ADDFLT completes in every state, the pair is on the input ports and is the
most recent one, the output port carries the exponent of a, plus one unless the wrapped sum of a and the
shifted b is zero, that word is what is then read, and nothing else changes, but that a new pair ends a change
of operands (the model's choice, log entry 9). -/
def Obligations.AddfltGivesIntegerResult : Prop :=
  ∀ (a b : Word) (s : State),
    let delta : Int := ((a.toNat / 2 ^ 24 : Nat) : Int) - ((b.toNat / 2 ^ 24 : Nat) : Int)
    let mb : Nat :=
      if 0 ≤ delta ∧ delta ≤ 31 then b.toNat / 2 ^ delta.toNat
      else if -31 ≤ delta ∧ delta ≤ -1 then b.toNat * 2 ^ (-delta).toNat % 2 ^ 32
      else 0
    let y : Word := BitVec.ofInt 32
      (((a.toNat / 2 ^ 24 : Nat) : Int) - 128 + (if (a.toNat + mb) % 2 ^ 32 = 0 then 0 else 1))
    let t : State :=
      { a := some a, b := some b, y := some y, last := some (a, b),
        moved := if s.a = some a ∧ s.b = some b ∧ s.last = some (a, b) then s.moved else none,
        script := s.script, results := s.results }
    exec (.addflt a b) s = .next t ∧ t.readY = .next y

/-- R134: a transaction on any operand pair answers the next state with y = addflt(a, b), applied by exec or
by a step on driven ports; the one fault is reading y before any transaction. -/
def Obligations.TransactionAlwaysCompletes : Prop :=
  (∀ (a b : Word) (s : State), ∃ t, exec (.addflt a b) s = .next t ∧
    t.y = some (addflt a b) ∧ t.readY = .next (addflt a b)) ∧
  (∀ (a b : Word) (s : State), s.script = [] → s.a = some a → s.b = some b → s.changing = false →
    ∃ t, step s = .next t ∧ t.y = some (addflt a b) ∧ t.readY = .next (addflt a b)) ∧
  (∀ s : State, (s.readY = .fault .noTransaction ↔ s.last = none) ∧ ∀ r, s.readY ≠ .refused r) ∧
  (∀ r : Fault, r = .noTransaction)

/-- R95: the source's primary law, for every pair whose delta is in [0, 31]. -/
def Obligations.PrimaryFunctionalLaw : Prop :=
  ∀ (a b : Word) (s : State),
    let delta : Int := ((a >>> 24).toNat : Int) - ((b >>> 24).toNat : Int)
    0 ≤ delta → delta ≤ 31 →
    ∃ t, exec (.addflt a b) s = .next t ∧
      t.y = some (BitVec.ofInt 32
        (((a >>> 24).toNat : Int) - 128 + (if a + (b >>> delta.toNat) ≠ 0#32 then 1 else 0)))

/-- R96: ADDFLT answers some y for every pair, the same one whatever happened before. -/
def Obligations.TotalAndDeterministic : Prop :=
  ∀ (a b : Word) (s s' : State), ∃ t t' y,
    exec (.addflt a b) s = .next t ∧ exec (.addflt a b) s' = .next t' ∧
    t.y = some y ∧ t'.y = some y ∧ t.readY = .next y ∧ t'.readY = .next y

/-- The spec's own inference "The result is one of two values" (law R97, from R83, R91 to R93), under every
policy: y is the pattern of ea or of ea + 1, and depends on b only through nz. -/
def Obligations.ResultIsOneOfTwo : Prop :=
  ∀ (oor : OorShift) (a b b' : Word),
    (addfltWith oor a b = BitVec.ofInt 32 (exponent a).toInt ∨
      addfltWith oor a b = BitVec.ofInt 32 ((exponent a).toInt + 1)) ∧
    ((evaluate oor a b).nz = (evaluate oor a b').nz → addfltWith oor a b = addfltWith oor a b') ∧
    ((addfltWith oor a b).toInt = (exponent a).toInt ∨ (addfltWith oor a b).toInt = (exponent a).toInt + 1)

/-- The spec's own inference "When the exponent is not incremented" (law R98, from R90 and R91): nz is 0 exactly when the shifted b is the two's-complement negation of a. -/
def Obligations.NotIncrementedIffNegation : Prop :=
  ∀ (oor : OorShift) (a b : Word),
    ((evaluate oor a b).nz = false ↔ (evaluate oor a b).mb.toNat = (2 ^ 32 - a.toNat) % 2 ^ 32) ∧
    (a = 0#32 → ((evaluate oor a b).nz = false ↔ (evaluate oor a b).mb = 0#32))

/-- The spec's own inference "Saturated shift under SAT_BIDIR" (law R99, from R87, R90 and R91): with |delta| ≥ 32 this hardware's y is ea, plus one unless a is zero; MASK5 breaks the law. -/
def Obligations.SaturatedShiftLeavesA : Prop :=
  (∀ a b : Word,
    let n := evaluate (outOfRange Config.oorShiftPolicy) a b
    32 ≤ n.delta.toInt.natAbs →
    n.mb = 0#32 ∧ n.sum = a ∧ (n.nz = true ↔ a ≠ 0#32) ∧
    addflt a b = BitVec.ofInt 32 (n.ea.toInt + (if a ≠ 0#32 then 1 else 0)) ∧
    (-128 < n.ea.toInt → addflt a b = BitVec.ofInt 32 (n.ea.toInt + 1))) ∧
  (∀ a : Word, -128 < (exponent a).toInt → a ≠ 0#32) ∧
  addflt 0xA0000000#32 0x60000000#32 = 0x21#32 ∧
  addfltWith (outOfRange .mask5) 0xA0000000#32 0x60000000#32 = 0x20#32

/-- The spec's own inference "Both exponent fields zero" (law R100, from R83 to R86, R90 and R91): with both exponent fields zero the sum does not wrap, and y is 0xFFFFFF81 unless both words are
zero; this holds under every policy. -/
def Obligations.BothExponentFieldsZero : Prop :=
  ∀ (oor : OorShift) (a b : Word), exponentField a = 0#8 → exponentField b = 0#8 →
    (evaluate oor a b).ea.toInt = -128 ∧ (evaluate oor a b).eb.toInt = -128 ∧
    (evaluate oor a b).delta.toInt = 0 ∧ (evaluate oor a b).mb = b ∧
    a.toNat < 2 ^ 24 ∧ b.toNat < 2 ^ 24 ∧ (evaluate oor a b).sum.toNat = a.toNat + b.toNat ∧
    ((evaluate oor a b).nz = true ↔ a ≠ 0#32 ∨ b ≠ 0#32) ∧
    addfltWith oor a b = (if a = 0#32 ∧ b = 0#32 then 0xFFFFFF80#32 else 0xFFFFFF81#32)

/-- The spec's own inference "The same value on both ports" (law R101, from R85, R86, R90 and R91). -/
def Obligations.SameWordOnBothPorts : Prop :=
  (∀ (oor : OorShift) (a : Word),
    (evaluate oor a a).delta.toInt = 0 ∧ (evaluate oor a a).mb = a ∧
    (evaluate oor a a).sum.toNat = 2 * a.toNat % 2 ^ 32 ∧
    ((evaluate oor a a).sum = 0#32 ↔ a = 0#32 ∨ a = 0x80000000#32) ∧
    (a ≠ 0#32 → a ≠ 0x80000000#32 → addfltWith oor a a = BitVec.ofInt 32 ((exponent a).toInt + 1))) ∧
  addflt 0#32 0#32 = 0xFFFFFF80#32 ∧ addflt 0x80000000#32 0x80000000#32 = 0#32

/-- The spec's own inference "Not commutative" (law R102, from R83 to R93), with the nets of the swapped example. -/
def Obligations.NotCommutative : Prop :=
  addflt 0x81000001#32 0x80000000#32 = 2#32 ∧ addflt 0x80000000#32 0x81000001#32 = 1#32 ∧
  let n := evaluate (outOfRange Config.oorShiftPolicy) 0x80000000#32 0x81000001#32
  n.ea.toInt = 0 ∧ n.delta.toInt = -1 ∧ n.mb = 0x81000001#32 <<< 1 ∧ n.mb = 0x02000002#32 ∧
  n.sum = 0x82000002#32 ∧ n.nz = true

/-- The spec's own inference "Policy independence" (law R103, from R86 to R88 and R97): in range SAT_BIDIR and MASK5 agree, as any two policies do; outside they differ only through
nz, and by at most 1. -/
def Obligations.PolicyIndependence : Prop :=
  ∀ (p q : OorShift) (a b : Word),
    (0 ≤ (evaluate p a b).delta.toInt → (evaluate p a b).delta.toInt ≤ 31 →
      addfltWith p a b = addfltWith q a b) ∧
    ((evaluate p a b).nz = (evaluate q a b).nz → addfltWith p a b = addfltWith q a b) ∧
    ((addfltWith p a b).toInt - (addfltWith q a b).toInt).natAbs ≤ 1

/-- The spec's own inference "y takes exactly 257 values" (R66, from R65 and R92): y takes exactly the 257 exponent-shaped values, its bits 31 to 8 are all equal, and its low nine
bits are the adjusted exponent. -/
def Obligations.ResultValueSet : Prop :=
  (∀ (oor : OorShift) (a b : Word),
    ((addfltWith oor a b).toNat ≤ 0x80 ∨ 0xFFFFFF80 ≤ (addfltWith oor a b).toNat) ∧
    (addfltWith oor a b).extractLsb' 8 24 =
      (if (evaluate oor a b).eAdj.toInt < 0 then BitVec.allOnes 24 else 0#24) ∧
    (addfltWith oor a b).extractLsb' 0 9 = (evaluate oor a b).eAdj) ∧
  (∀ y : Word, y.toNat ≤ 0x80 ∨ 0xFFFFFF80 ≤ y.toNat → ∃ a b : Word, addflt a b = y)

/-- R67: the transaction word is a above b, and its four fields are the two words and their exponent
fields. -/
def Obligations.TransactionWordFields : Prop :=
  ∀ a b : Word,
    (encode (.addflt a b)).toNat = a.toNat * 2 ^ 32 + b.toNat ∧
    (encode (.addflt a b)).fieldA = a ∧ (encode (.addflt a b)).fieldB = b ∧
    (encode (.addflt a b)).fieldEA = a.extractLsb' 24 8 ∧ (encode (.addflt a b)).fieldEB = b.extractLsb' 24 8

/-- R68: every 64-bit word decodes to ADDFLT with A = T[63:32] and B = T[31:0], and runs. -/
def Obligations.EveryWordDecodesToAddflt : Prop :=
  ∀ T : Pair64,
    decode T = .addflt (T.extractLsb' 32 32) (T.extractLsb' 0 32) ∧
    decodeTableWord 64 T.toNat = some (decode T) ∧
    ∀ s : State, ∃ t y, exec (decode T) s = .next t ∧ t.y = some y ∧ t.readY = .next y

/-- Decode and encode agree, in both directions, over all instructions and all transaction words. -/
def Obligations.DecodeEncodeInverse : Prop :=
  (∀ i : Instr, i.wf = true → decode (encode i) = i) ∧ (∀ T : Pair64, encode (decode T) = T)

/-- A few transaction words written out from 95_test_vectors.md section 4 decode to their operand pairs. -/
def Obligations.WrittenWordsDecode : Prop :=
  decode 0x8100000180000000#64 = .addflt 0x81000001#32 0x80000000#32 ∧
  decode 0x0000000280000000#64 = .addflt 0x00000002#32 0x80000000#32 ∧
  decode 0xFFFFFF8100000002#64 = .addflt 0xFFFFFF81#32 0x00000002#32 ∧
  decodeTableWord 64 0x54FE000055810000 = some (.addflt 0x54FE0000#32 0x55810000#32)

/-- The spec's own inference "Every transaction has the single PAIR64 form" (R71, from R67 and R68): a string
that is not 64 bits long is rejected by name and is no table word. That withFetchWord then leaves the state as
it is, is the model's choice, log entry 5. -/
def Obligations.OtherWidthsRejected : Prop :=
  ∀ nbits w : Nat, nbits ≠ 64 →
    decodeBits nbits w = .error (.notPair64 nbits) ∧ decodeTableWord nbits w = none ∧
    ∀ s : State, s.withFetchWord nbits w = s

/-- The written form of a transaction, and of a script line, reads back as what was written. The exact form,
the operand `y` and the place of ` repeat n` are the model's choices, log entries 4 and 11. -/
def Obligations.WrittenFormReadsBack : Prop :=
  (∀ i : Instr, readInstr (renderInstr i) = some i) ∧ (∀ l : ScriptLine, readLine (renderLine l) = some l)

/-- With no script, a step on a pair whose change is over is exec of the decoded transaction word; a table
word placed by withFetchWord (log entry 5) is the instruction that the very next step runs. -/
def Obligations.StepRunsDecodedInstruction : Prop :=
  (∀ (s : State) (a b : Word), s.script = [] → s.a = some a → s.b = some b → s.changing = false →
    step s = exec (decode (a ++ b)) s) ∧
  (∀ (s : State) (w : Nat), ∃ i, decodeBits 64 w = .ok i ∧ decodeTableWord 64 w = some i ∧
    step (s.withFetchWord 64 w) = exec i (s.withFetchWord 64 w))

/-- With a script, a step is exec of the decoded pair of its first line's operands, on the state whose
ports carry them; then the host reads y and keeps it. That one step fetches, presents, reads and keeps is
the model's choice, log entry 6. -/
def Obligations.ScriptStepRunsDecodedInstruction : Prop :=
  ∀ (s : State) (l : ScriptLine) (rest : List ScriptLine) (a b : Word),
    s.script = l :: rest → l.times ≠ 0 →
    s.operandWord l.a = .next a → s.operandWord l.b = .next b →
    ∃ t, exec (decode (a ++ b)) ((s.present a b).setScript (scriptAfter l rest)) = .next t ∧
      t = { a := some a, b := some b, y := some (addflt a b), last := some (a, b), moved := none,
            script := scriptAfter l rest, results := s.results } ∧
      step s = .next { t with results := (l.label, addflt a b) :: s.results }

/-- A line with any operands the host has and repeat n + 1 performs n + 1 transactions, each on the words its
operands have at that step, and keeps n + 1 results under its number; then the rest of the script stands. A
line with any operands and repeat 0 performs none. That repeat 0 performs nothing, and what an operand names
on each repetition, are the model's choices, log entry 4; one transaction a step is log entry 6. -/
def Obligations.RepeatedLineRunsItsCount : Prop :=
  ∀ (s : State) (l : ScriptLine) (rest : List ScriptLine), s.script = l :: rest →
    (l.times = 0 → step s = .next { s with script := rest }) ∧
    (∀ (n : Nat) (a b : Word), l.times = n + 1 →
      s.operandWord l.a = .next a → s.operandWord l.b = .next b →
      (∃ (t : State) (kept : List Word), State.run (n + 1) s = .next t ∧ t.script = rest ∧
        kept.length = n + 1 ∧ t.results = kept.map (fun y => (l.label, y)) ++ s.results) ∧
      (∀ j : Nat, j ≤ n → ∃ (u v : State) (x z : Word), State.run j s = .next u ∧ step u = .next v ∧
        u.operandWord l.a = .next x ∧ u.operandWord l.b = .next z ∧ v.last = some (x, z) ∧
        v.results = (l.label, addflt x z) :: u.results ∧
        v.script = (if j = n then rest else { l with times := n - j } :: rest))) ∧
    (∀ (n : Nat) (a b : Word), l.times = n + 1 → l.a = .lit a → l.b = .lit b →
      State.run (n + 1) s = .next
        { a := some a, b := some b, y := some (addflt a b), last := some (a, b), moved := none, script := rest,
          results := List.replicate (n + 1) (l.label, addflt a b) ++ s.results })

/-- A repeated line that feeds back the previous y (95_test_vectors.md 4.2; the operand is the model's choice,
log entry 4) applies ADDFLT to it n + 1 times in n + 1 steps (one transaction a step is the model's choice, log
entry 6). -/
def Obligations.RepeatedLineFeedsBack : Prop :=
  ∀ (s : State) (l : ScriptLine) (rest : List ScriptLine) (n : Nat) (y b : Word),
    s.script = l :: rest → l.times = n + 1 → l.a = .previous → l.b = .lit b → s.readY = .next y →
    ∃ t, State.run (n + 1) s = .next t ∧ t.script = rest ∧
      t.readY = .next ((fun x => addflt x b)^[n + 1] y)

/-- An operand that names no earlier result is refused, and the previous y before any transaction faults; where
neither operand can be fetched the stop is that of a: all of it the model's choice, log entry 7. -/
def Obligations.UnavailableOperandStops : Prop :=
  ∀ (s : State) (l : ScriptLine) (rest : List ScriptLine), s.script = l :: rest → l.times ≠ 0 →
    (∀ k, l.a = .result k → k ∉ s.results.map Prod.fst → step s = .refused (.notEarlierResult k)) ∧
    (l.a = .previous → s.last = none → step s = .fault .noTransaction) ∧
    (∀ a k, s.operandWord l.a = .next a → l.b = .result k → k ∉ s.results.map Prod.fst →
      step s = .refused (.notEarlierResult k)) ∧
    (∀ a, s.operandWord l.a = .next a → l.b = .previous → s.last = none → step s = .fault .noTransaction)

/-- A named result is the newest one kept under its number, and the previous y is addflt of the most recent
pair: both are the model's choice, log entry 4. -/
def Obligations.OperandNamesEarlierResult : Prop :=
  ∀ (s : State) (k : Nat) (y : Word) (newer older : List (Nat × Word)),
    (s.results = newer ++ (k, y) :: older → k ∉ newer.map Prod.fst → s.operandWord (.result k) = .next y) ∧
    (∀ a b, s.last = some (a, b) → s.operandWord .previous = .next (addflt a b)) ∧
    s.operandWord (.lit y) = .next y

/-- The model's choice (log entry 2): with no script and a port undriven, a step changes nothing. -/
def Obligations.UndrivenPortsIdle : Prop :=
  ∀ s : State, s.script = [] → s.a = none ∨ s.b = none → step s = .next s

/-- The model's choice (log entries 2 and 9): with no script, a step changes nothing while a change of operands
is in progress: operands of two pairs are no transaction (R44, R145). -/
def Obligations.UnfinishedChangeIsNoTransaction : Prop :=
  ∀ s : State, s.script = [] → s.changing = true → step s = .next s

/-- R45: applying the same pair any number of times gives the same y each time and changes nothing else:
from any state, once ADDFLT has run, running it on the same pair again changes nothing at all; steps that
evaluate the pair the ports keep carrying write y and nothing else, and under the invariant nothing; and
presenting a pair again and again is presenting it once. -/
def Obligations.SamePairSameResult : Prop :=
  (∀ (s : State) (a b : Word), ∃ t, exec (.addflt a b) s = .next t ∧ t.y = some (addflt a b) ∧
    exec (.addflt a b) t = .next t) ∧
  (∀ (s : State) (a b : Word) (k : Nat), s.script = [] → s.a = some a → s.b = some b → s.last = some (a, b) →
    State.run (k + 1) s = .next { s with y := some (addflt a b) } ∧
    (s.invariant = true → State.run (k + 1) s = .next s)) ∧
  (∀ (s : State) (a b : Word) (k : Nat), (fun t : State => t.present a b)^[k + 1] s = s.present a b)

/-- The first step on a complete pair with no script, whatever came before: it is the transaction on that pair.
A new pair ends a change of operands (the model's choice, log entry 9); the same pair again does not (R45). -/
def Obligations.FirstEvaluationCompletesPair : Prop :=
  ∀ (s : State) (a b : Word) (k : Nat), s.script = [] → s.a = some a → s.b = some b → s.changing = false →
    let moved := if s.last = some (a, b) then s.moved else none
    State.run (k + 1) s = .next { s with y := some (addflt a b), last := some (a, b), moved := moved }

/-- Evaluations between two drives of a host that changes its operands at different moments change nothing, and
the second drive still completes the pair (R45, R145). The end of a change and that an unfinished one makes a
step idle are the model's choices, log entries 9 and 2. -/
def Obligations.EvaluationLeavesChangeOpen : Prop :=
  ∀ (s : State) (a b : Word) (k : Nat), s.invariant = true → s.moved = none → s.script = [] →
    (State.run k (s.driveA a) = .next (s.driveA a) ∧ (s.driveA a).driveB b = s.present a b) ∧
    (State.run k (s.driveB b) = .next (s.driveB b) ∧ (s.driveB b).driveA a = s.present a b)

/-- R141: in every state that meets the invariant y has no value, and reading it is the fault, exactly while
an input carries none; once both inputs carry a value y is addflt of them at once, whatever was presented or
driven to bring them there. At power-up y has no value. -/
def Obligations.OutputFollowsInputs : Prop :=
  (∀ s : State, s.invariant = true →
    (s.y = none ↔ s.a = none ∨ s.b = none) ∧ (s.last = none ↔ s.a = none ∨ s.b = none) ∧
    (s.readY = .fault .noTransaction ↔ s.last = none) ∧
    (∀ a b : Word, s.a = some a → s.b = some b → s.y = some (addflt a b))) ∧
  State.reset.y = none ∧ State.reset.last = none

/-- The output is combinational (R144): from ANY state, the pair just presented is the one that y, a read and a
sample of the port answer for, with no step between; and driving one port changes y at once to addflt of
what both then carry. That a script operand may be that y is the model's choice, log entry 4. -/
def Obligations.OutputIsCombinational : Prop :=
  (∀ (s : State) (a b : Word), (s.present a b).y = some (addflt a b) ∧
    (s.present a b).readY = .next (addflt a b) ∧ (s.present a b).samplePort = .next (addflt a b) ∧
    (s.present a b).operandWord .previous = .next (addflt a b)) ∧
  (∀ (s : State) (a b : Word), s.b = some b → (s.driveA a).y = some (addflt a b)) ∧
  (∀ (s : State) (a b : Word), s.a = some a → (s.driveB b).y = some (addflt a b))

/-- Driving both ports one after the other, in either order, is in the end the presentation of the pair; in
between, the ports carry the new and the old operand, the sample of y is refused if they differ from the
completed pair, and a read answers the completed pair (R145, U6; the end of a change is log entry 9). -/
def Obligations.DrivingBothPortsCompletesPair : Prop :=
  ∀ (s : State) (a b : Word), s.invariant = true → s.moved = none →
    (s.driveA a).driveB b = s.present a b ∧ (s.driveB b).driveA a = s.present a b ∧
    (s.driveA a).last = s.last ∧ (s.driveB b).last = s.last ∧
    (∀ x z : Word, s.last = some (x, z) →
      (s.driveA a).samplePort = (if a = x then .next (addflt x z) else .refused .operandsChanging) ∧
      (s.driveB b).samplePort = (if b = z then .next (addflt x z) else .refused .operandsChanging))

/-- The port y gives a value exactly while the input ports carry the most recent pair, and then addflt of
what they carry; it faults exactly while an input carries none; in the middle of a change it is refused
(R145, U6). The end of a change is the model's choice, log entry 9. -/
def Obligations.PortSampleOnlyCompletedPair : Prop :=
  ∀ s : State, s.invariant = true →
    (∀ y : Word, s.samplePort = .next y ↔
      ∃ a b, s.last = some (a, b) ∧ s.a = some a ∧ s.b = some b ∧ y = addflt a b) ∧
    (s.samplePort = .fault .noTransaction ↔ s.a = none ∨ s.b = none) ∧
    (s.samplePort = .refused .operandsChanging ↔ ∃ a b p, s.a = some a ∧ s.b = some b ∧ s.last = some p ∧ p ≠ (a, b)) ∧
    (s.samplePort = .refused .operandsChanging → s.moved ≠ none)

/-- The machine after reset: nothing driven, nothing completed, and y has no value. That the host has moved
no operand and has no script and no results is the model's choice, log entry 3. -/
def Obligations.ResetHasNoResult : Prop :=
  State.reset.a = none ∧ State.reset.b = none ∧ State.reset.y = none ∧ State.reset.last = none ∧
  State.reset.moved = none ∧ State.reset.script = [] ∧ State.reset.results = [] ∧
  State.reset.readY = .fault .noTransaction ∧ State.reset.samplePort = .fault .noTransaction

/-- The invariant holds at reset. -/
def Obligations.InvariantAtReset : Prop :=
  State.reset.invariant = true

/-- Every step keeps the invariant: every kept result is exponent-shaped, a transaction has been completed
exactly when both ports carry a value, the output port is ADDFLT of what they carry, and with no port moved
alone they carry the most recent pair. -/
def Obligations.StepKeepsInvariant : Prop :=
  ∀ s t : State, s.invariant = true → step s = .next t → t.invariant = true

/-- Whatever the environment does at the ports keeps the invariant too. -/
def Obligations.EnvironmentKeepsInvariant : Prop :=
  ∀ (s : State) (a b : Word), s.invariant = true →
    (s.driveA a).invariant = true ∧ (s.driveB b).invariant = true ∧ (s.present a b).invariant = true

/-- A script whose operands all name earlier results answers a next step, and stays such a script. What an
operand names and that one step is one line are the model's choices, log entries 4 and 6; that a step with no
pair counts as one is log entry 2. -/
def Obligations.ReadyScriptStepStaysReady : Prop :=
  ∀ s : State, s.scriptReady = true → ∃ t, step s = .next t ∧ t.scriptReady = true

/-- A script whose operands all name earlier results never faults and never is refused, from any state and
for runs of any length; so does every well-formed script from its loading. The run counts the idle steps
after the script too (the model's choice, log entry 2), and rests on log entries 4 to 6; that well-formed also
asks for distinct line numbers is log entry 12. -/
def Obligations.ReadyScriptNeverStops : Prop :=
  (∀ s : State, s.scriptReady = true → s.neverStops) ∧
  (∀ script : List ScriptLine, scriptWf script = true → (State.load script).neverStops)

/-- On two machines with any histories, the same script of literal operands keeps the same results (R48, R131;
the host as an agent of the step is the model's choice, log entry 6). -/
def Obligations.ResultsIndependentOfHistory : Prop :=
  ∀ (k : Nat) (s s' t t' : State), s.script = s'.script →
    (∀ l ∈ s.script, (∃ w, l.a = .lit w) ∧ ∃ w, l.b = .lit w) →
    State.run k s = .next t → State.run k s' = .next t' →
    t.script = t'.script ∧
    ∃ kept, t.results = kept ++ s.results ∧ t'.results = kept ++ s'.results

/-- The gate-level block computes ADDFLT. -/
def Obligations.GateLevelBlockIsAddflt : Prop :=
  ∀ a b : Word, gateAddflt a b = addflt a b

end
end

