-- ==== Sys2Proof/Laws/Datapath.lean ====
section
/-! SUPPORT. One lemma per net of an evaluation, and the named policies' shifters by region. -/

namespace Sys2Proof.Machine

@[simp] theorem evaluate_ma (oor : OorShift) (a b : Word) : (evaluate oor a b).ma = a := by
  simp only [evaluate]
@[simp] theorem evaluate_mb0 (oor : OorShift) (a b : Word) : (evaluate oor a b).mb0 = b := by
  simp only [evaluate]
@[simp] theorem evaluate_ea (oor : OorShift) (a b : Word) : (evaluate oor a b).ea = exponent a := by
  simp only [evaluate]
@[simp] theorem evaluate_eb (oor : OorShift) (a b : Word) : (evaluate oor a b).eb = exponent b := by
  simp only [evaluate]
@[simp] theorem evaluate_delta (oor : OorShift) (a b : Word) : (evaluate oor a b).delta = exponentDifference (exponent a) (exponent b) := by
  simp only [evaluate]
theorem evaluate_mb (oor : OorShift) (a b : Word) : (evaluate oor a b).mb = shifter oor b (evaluate oor a b).delta := by
  simp only [evaluate]
theorem evaluate_sum (oor : OorShift) (a b : Word) : (evaluate oor a b).sum = adder a (evaluate oor a b).mb := by
  simp only [evaluate]
theorem evaluate_nz (oor : OorShift) (a b : Word) : (evaluate oor a b).nz = zeroDetector (evaluate oor a b).sum := by
  simp only [evaluate]
theorem evaluate_eAdj (oor : OorShift) (a b : Word) : (evaluate oor a b).eAdj = exponentMux (exponent a) (evaluate oor a b).nz := by
  simp only [evaluate]
theorem evaluate_y (oor : OorShift) (a b : Word) : (evaluate oor a b).y = outputExtender (evaluate oor a b).eAdj := by
  simp only [evaluate]

theorem addfltWith_eq (oor : OorShift) (a b : Word) : addfltWith oor a b = (evaluate oor a b).y := rfl

theorem addflt_eq (a b : Word) : addflt a b = addfltWith satBidirOor a b := rfl

/-- In range, the shifter does not consult its policy. -/
theorem shifter_of_inRange {oor : OorShift} {mb0 : Word} {delta : S9} (h : 0 ≤ delta.toInt ∧ delta.toInt ≤ 31) :
    shifter oor mb0 delta = mb0 >>> delta.toInt.toNat :=
  if_pos h

/-- Out of range, the shifter is its policy. -/
theorem shifter_of_outOfRange {oor : OorShift} {mb0 : Word} {delta : S9}
    (h : ¬(0 ≤ delta.toInt ∧ delta.toInt ≤ 31)) : shifter oor mb0 delta = oor mb0 delta :=
  if_neg h

/-- SAT_BIDIR in its left-shift region. -/
theorem satBidirOor_of_left {mb0 : Word} {delta : S9} (h : -31 ≤ delta.toInt ∧ delta.toInt ≤ -1) :
    satBidirOor mb0 delta = mb0 <<< (-delta.toInt).toNat :=
  if_pos h

/-- SAT_BIDIR outside its left-shift region. -/
theorem satBidirOor_of_not_left {mb0 : Word} {delta : S9} (h : ¬(-31 ≤ delta.toInt ∧ delta.toInt ≤ -1)) :
    satBidirOor mb0 delta = 0#32 :=
  if_neg h

@[simp] theorem zeroDetector_eq_true_iff (sum : Word) : zeroDetector sum = true ↔ sum ≠ 0#32 := by
  simp [zeroDetector]

@[simp] theorem zeroDetector_eq_false_iff (sum : Word) : zeroDetector sum = false ↔ sum = 0#32 := by
  simp [zeroDetector]

end Sys2Proof.Machine
end

