-- ==== Sys2Proof/Laws/Decode.lean ====
section
/-! SUPPORT. Reading the two fields of a transaction word. -/

namespace Sys2Proof

@[simp] theorem Pair64.fieldA_append (a b : Word) : Pair64.fieldA (a ++ b) = a := by
  ext k hk
  simp only [Pair64.fieldA, BitVec.getElem_extractLsb']
  exact (BitVec.getLsbD_append (x := a) (y := b)).trans (by simp [BitVec.getLsbD_eq_getElem hk])

@[simp] theorem Pair64.fieldB_append (a b : Word) : Pair64.fieldB (a ++ b) = b := by
  ext k hk
  simp only [Pair64.fieldB, BitVec.getElem_extractLsb']
  exact (BitVec.getLsbD_append (x := a) (y := b)).trans (by simp [hk])

/-- A string of 64 bits always decodes. -/
theorem decodeBits_pair64 (w : Nat) : decodeBits 64 w = .ok (decode (BitVec.ofNat 64 w)) :=
  if_pos rfl

/-- A string of any other length never does. -/
theorem decodeBits_of_ne {nbits : Nat} (h : nbits ≠ 64) (w : Nat) : decodeBits nbits w = .error (.notPair64 nbits) :=
  if_neg h

end Sys2Proof
end

