-- ==== Sys2Proof/Laws/State.lean ====
section
/-! SUPPORT. One lemma per field per update of State, true by rfl, and what driving one port does. -/

namespace Sys2Proof.Machine

@[simp] theorem State.complete_a (s : State) (a b y : Word) : (s.complete a b y).a = some a := rfl
@[simp] theorem State.complete_b (s : State) (a b y : Word) : (s.complete a b y).b = some b := rfl
@[simp] theorem State.complete_y (s : State) (a b y : Word) : (s.complete a b y).y = some y := rfl
@[simp] theorem State.complete_last (s : State) (a b y : Word) : (s.complete a b y).last = some (a, b) := rfl
@[simp] theorem State.complete_moved (s : State) (a b y : Word) :
    (s.complete a b y).moved = if s.holds a b then s.moved else none := rfl
@[simp] theorem State.complete_script (s : State) (a b y : Word) : (s.complete a b y).script = s.script := rfl
@[simp] theorem State.complete_results (s : State) (a b y : Word) : (s.complete a b y).results = s.results := rfl

@[simp] theorem State.present_a (s : State) (a b : Word) : (s.present a b).a = some a := rfl
@[simp] theorem State.present_b (s : State) (a b : Word) : (s.present a b).b = some b := rfl
@[simp] theorem State.present_y (s : State) (a b : Word) : (s.present a b).y = some (addflt a b) := rfl
@[simp] theorem State.present_last (s : State) (a b : Word) : (s.present a b).last = some (a, b) := rfl
@[simp] theorem State.present_moved (s : State) (a b : Word) : (s.present a b).moved = none := rfl
@[simp] theorem State.present_script (s : State) (a b : Word) : (s.present a b).script = s.script := rfl
@[simp] theorem State.present_results (s : State) (a b : Word) : (s.present a b).results = s.results := rfl

@[simp] theorem State.keepResult_a (s : State) (label : Nat) (y : Word) : (s.keepResult label y).a = s.a := rfl
@[simp] theorem State.keepResult_b (s : State) (label : Nat) (y : Word) : (s.keepResult label y).b = s.b := rfl
@[simp] theorem State.keepResult_y (s : State) (label : Nat) (y : Word) : (s.keepResult label y).y = s.y := rfl
@[simp] theorem State.keepResult_last (s : State) (label : Nat) (y : Word) : (s.keepResult label y).last = s.last := rfl
@[simp] theorem State.keepResult_moved (s : State) (label : Nat) (y : Word) : (s.keepResult label y).moved = s.moved := rfl
@[simp] theorem State.keepResult_script (s : State) (label : Nat) (y : Word) : (s.keepResult label y).script = s.script := rfl
@[simp] theorem State.keepResult_results (s : State) (label : Nat) (y : Word) : (s.keepResult label y).results = (label, y) :: s.results := rfl

@[simp] theorem State.setScript_a (s : State) (script : List ScriptLine) : (s.setScript script).a = s.a := rfl
@[simp] theorem State.setScript_b (s : State) (script : List ScriptLine) : (s.setScript script).b = s.b := rfl
@[simp] theorem State.setScript_y (s : State) (script : List ScriptLine) : (s.setScript script).y = s.y := rfl
@[simp] theorem State.setScript_last (s : State) (script : List ScriptLine) : (s.setScript script).last = s.last := rfl
@[simp] theorem State.setScript_moved (s : State) (script : List ScriptLine) : (s.setScript script).moved = s.moved := rfl
@[simp] theorem State.setScript_script (s : State) (script : List ScriptLine) : (s.setScript script).script = script := rfl
@[simp] theorem State.setScript_results (s : State) (script : List ScriptLine) : (s.setScript script).results = s.results := rfl

/-- Driving a after b was driven alone completes the pair. -/
theorem State.driveA_of_moved {s : State} {v : Word} (w : Word) (hm : s.moved = some .b) (hv : s.b = some v) :
    s.driveA w = s.present w v := by
  simp [State.driveA, hm, hv]

/-- Driving a otherwise begins or goes on with a change; the output follows. -/
theorem State.driveA_of_not_moved {s : State} (w : Word) (h : s.moved ≠ some .b ∨ s.b = none) :
    s.driveA w = { s with a := some w, y := portOutput (some w) s.b, moved := some .a } := by
  unfold State.driveA
  split
  · simp_all
  · rfl

/-- Driving a leaves the host's script and results. -/
@[simp] theorem State.driveA_script (s : State) (w : Word) : (s.driveA w).script = s.script := by
  unfold State.driveA
  split <;> rfl

@[simp] theorem State.driveA_results (s : State) (w : Word) : (s.driveA w).results = s.results := by
  unfold State.driveA
  split <;> rfl

/-- Driving b after a was driven alone completes the pair. -/
theorem State.driveB_of_moved {s : State} {v : Word} (w : Word) (hm : s.moved = some .a) (hv : s.a = some v) :
    s.driveB w = s.present v w := by
  simp [State.driveB, hm, hv]

/-- Driving b otherwise begins or goes on with a change; the output follows. -/
theorem State.driveB_of_not_moved {s : State} (w : Word) (h : s.moved ≠ some .a ∨ s.a = none) :
    s.driveB w = { s with b := some w, y := portOutput s.a (some w), moved := some .b } := by
  unfold State.driveB
  split
  · simp_all
  · rfl

/-- Driving b leaves the host's script and results. -/
@[simp] theorem State.driveB_script (s : State) (w : Word) : (s.driveB w).script = s.script := by
  unfold State.driveB
  split <;> rfl

@[simp] theorem State.driveB_results (s : State) (w : Word) : (s.driveB w).results = s.results := by
  unfold State.driveB
  split <;> rfl

end Sys2Proof.Machine
end

