-- ==== Sys2Proof/Laws/Ops.lean ====
section
/-! SUPPORT. What each shared operation can answer, said once. -/

namespace Sys2Proof.Machine

section andThen
variable {σ τ : Type} {f : σ → Host.Outcome τ Fault Refusal}

@[simp] theorem andThen_next (s : σ) : andThen (.next s) f = f s := rfl

@[simp] theorem andThen_fault (r : Fault) : andThen (.fault r) f = .fault r := rfl

@[simp] theorem andThen_refused (r : Refusal) : andThen (.refused r) f = .refused r := rfl

/-- A chain answers next only through a next of its first part. -/
theorem andThen_eq_next {o : Host.Outcome σ Fault Refusal} {t : τ} (h : andThen o f = .next t) :
    ∃ s, o = .next s ∧ f s = .next t := by
  cases o with
  | next s => exact ⟨s, rfl, h⟩
  | fault r => cases h
  | refused r => cases h

end andThen

theorem portPair_eq_some {a b : Option Word} {p : Word × Word} (h : portPair a b = some p) :
    a = some p.1 ∧ b = some p.2 := by
  unfold portPair at h
  split at h
  · cases h; exact ⟨rfl, rfl⟩
  · cases h

@[simp] theorem portPair_some (a b : Word) : portPair (some a) (some b) = some (a, b) := rfl

@[simp] theorem portPair_isSome (a b : Option Word) : (portPair a b).isSome = (a.isSome && b.isSome) := by
  cases a <;> cases b <;> rfl

@[simp] theorem portOutput_some (a b : Word) : portOutput (some a) (some b) = some (addflt a b) := rfl

@[simp] theorem State.complete_pair (s : State) (a b y : Word) : (s.complete a b y).pair = some (a, b) := rfl

@[simp] theorem State.present_pair (s : State) (a b : Word) : (s.present a b).pair = some (a, b) := rfl

@[simp] theorem State.setScript_pair (s : State) (script : List ScriptLine) : (s.setScript script).pair = s.pair := rfl

theorem State.holds_iff {s : State} {a b : Word} :
    s.holds a b = true ↔ s.a = some a ∧ s.b = some b ∧ s.last = some (a, b) := by
  simp only [State.holds, Bool.and_eq_true, beq_iff_eq, ← and_assoc]
  refine and_congr_left fun _ => ⟨portPair_eq_some, fun ⟨ha, hb⟩ => ?_⟩
  simp [State.pair, ha, hb]

/-- The same pair again writes the output port and nothing else (R45). -/
theorem State.complete_of_holds {s : State} {a b : Word} (y : Word) (h : s.holds a b = true) :
    s.complete a b y = { s with y := some y } := by
  obtain ⟨ha, hb, hl⟩ := State.holds_iff.1 h
  simp [State.complete, h, ha, hb, hl]

/-- After a transaction its pair is held. -/
@[simp] theorem State.complete_holds (s : State) (a b y : Word) : (s.complete a b y).holds a b = true :=
  State.holds_iff.2 ⟨rfl, rfl, rfl⟩

@[simp] theorem State.present_holds (s : State) (a b : Word) : (s.present a b).holds a b = true :=
  State.holds_iff.2 ⟨rfl, rfl, rfl⟩

@[simp] theorem State.setScript_holds (s : State) (script : List ScriptLine) (a b : Word) :
    (s.setScript script).holds a b = s.holds a b := rfl

/-- The transaction on a pair just presented, the host having turned to any script, changes nothing (R45). -/
@[simp] theorem State.present_setScript_complete (s : State) (a b : Word) (script : List ScriptLine) :
    ((s.present a b).setScript script).complete a b (addflt a b) = (s.present a b).setScript script := by
  rw [State.complete_of_holds _ (by simp)]
  rfl

/-- No change is in progress when the ports carry the most recent pair, or no pair was completed yet. -/
theorem State.not_changing {s : State} (h : s.last = none ∨ s.last = s.pair) : s.changing = false := by
  rcases h with h | h <;> simp [State.changing, h]

/-- The ports carry a transaction word only when both carry a value and no change is in progress. -/
theorem State.portWord_eq_some {s : State} {T : Pair64} (h : s.portWord = some T) :
    ∃ a b, s.changing = false ∧ s.a = some a ∧ s.b = some b ∧ T = a ++ b := by
  unfold State.portWord at h
  split at h
  · cases h
  · next hc =>
    obtain ⟨p, hp, rfl⟩ := Option.map_eq_some_iff.1 h
    obtain ⟨ha, hb⟩ := portPair_eq_some hp
    exact ⟨p.1, p.2, by simpa using hc, ha, hb, rfl⟩

theorem State.portWord_of_ports {s : State} {a b : Word} (hc : s.changing = false) (ha : s.a = some a)
    (hb : s.b = some b) : s.portWord = some (a ++ b) := by
  simp [State.portWord, State.pair, hc, ha, hb]

/-- A read of y answers only a word that is there. -/
theorem answerY_eq_next {o : Option Word} {y : Word} (h : answerY o = .next y) : o = some y := by
  cases o <;> cases h
  rfl

@[simp] theorem State.complete_readY (s : State) (a b y : Word) : (s.complete a b y).readY = .next (addflt a b) :=
  rfl

@[simp] theorem State.present_readY (s : State) (a b : Word) : (s.present a b).readY = .next (addflt a b) := rfl

/-- A read of y answers only the result of the completed pair. -/
theorem State.readY_eq_next {s : State} {y : Word} (h : s.readY = .next y) :
    ∃ a b, s.last = some (a, b) ∧ y = addflt a b := by
  obtain ⟨p, hp, rfl⟩ := Option.map_eq_some_iff.1 (answerY_eq_next h)
  exact ⟨p.1, p.2, hp, rfl⟩

/-- A sample of the port answers only what the port carries while no change is in progress. -/
theorem State.samplePort_eq_next {s : State} {y : Word} (h : s.samplePort = .next y) :
    s.changing = false ∧ s.y = some y := by
  unfold State.samplePort at h
  split at h
  · cases h
  · next hc => exact ⟨by simpa using hc, answerY_eq_next h⟩

/-- The three sources of an operand word. -/
theorem State.operandWord_eq_next {s : State} {o : ScriptOperand} {w : Word} (h : s.operandWord o = .next w) :
    o = .lit w ∨ (∃ k, o = .result k ∧ (k, w) ∈ s.results) ∨ (o = .previous ∧ s.readY = .next w) := by
  cases o with
  | lit v => cases h; exact .inl rfl
  | result k =>
    simp only [State.operandWord] at h
    split at h
    · next r hr =>
      cases h
      have hk : r.1 = k := by simpa using List.find?_some hr
      exact .inr (.inl ⟨k, rfl, hk ▸ List.mem_of_find?_eq_some hr⟩)
    · cases h
  | previous => exact .inr (.inr ⟨rfl, h⟩)

end Sys2Proof.Machine
end

