-- ==== Sys2Proof/Laws/PerInstr.lean ====
section
/-! SUPPORT. Statements about every instruction, made constructor by constructor (LAWS.json). -/

namespace Sys2Proof.Laws

/-- Every operand pair is a legal instruction (10_state.md R29, 30_encoding.md R70). -/
def OperandsLegal.Statement (i : Instr) : Prop := i.wf = true

theorem OperandsLegal.addflt (a b : Word) : OperandsLegal.Statement (.addflt a b) := rfl

end Sys2Proof.Laws
end

