-- ==== Sys2Proof/Laws/Step.lean ====
section
/-! SUPPORT. What one step can do: the inversion lemmas of exec, transact, runLine and step. -/

namespace Sys2Proof.Machine

@[simp] theorem exec_addflt (a b : Word) (s : State) : exec (.addflt a b) s = .next (s.complete a b (addflt a b)) := rfl

/-- With a complete pair on the ports, an evaluation is the transaction on it. -/
theorem State.transact_of_ports {s : State} {a b : Word} (hc : s.changing = false) (ha : s.a = some a)
    (hb : s.b = some b) : s.transact = .next (s.complete a b (addflt a b)) := by
  simp [State.transact, State.portWord_of_ports hc ha hb, decode]

theorem State.transact_of_no_word {s : State} (h : s.portWord = none) : s.transact = .next s := by
  simp [State.transact, h]

/-- An evaluation always answers next: nothing happens, or the ports' pair is a transaction. -/
theorem State.transact_eq_next {s t : State} (h : s.transact = .next t) :
    (s.portWord = none ∧ t = s) ∨
    ∃ a b, s.changing = false ∧ s.a = some a ∧ s.b = some b ∧ t = s.complete a b (addflt a b) := by
  cases hp : s.portWord with
  | none =>
    rw [State.transact_of_no_word hp] at h
    cases h
    exact .inl ⟨rfl, rfl⟩
  | some T =>
    obtain ⟨a, b, hc, ha, hb, -⟩ := State.portWord_eq_some hp
    rw [State.transact_of_ports hc ha hb] at h
    cases h
    exact .inr ⟨a, b, hc, ha, hb, rfl⟩

/-- The state one run of a script line leaves, when its operands are the words a and b. -/
def State.afterLine (s : State) (l : ScriptLine) (rest : List ScriptLine) (a b : Word) : State :=
  { a := some a, b := some b, y := some (addflt a b), last := some (a, b), moved := none, script := scriptAfter l rest,
    results := (l.label, addflt a b) :: s.results }

/-- A line whose operands the host has runs to the state `afterLine`. -/
theorem State.runLine_of_operands {s : State} {l : ScriptLine} {rest : List ScriptLine} {a b : Word}
    (hn : l.times ≠ 0) (ha : s.operandWord l.a = .next a) (hb : s.operandWord l.b = .next b) :
    s.runLine l rest = .next (s.afterLine l rest a b) := by
  have hc : ((s.present a b).setScript (scriptAfter l rest)).changing = false := State.not_changing (.inr rfl)
  have ht := State.transact_of_ports hc rfl rfl
  rw [State.present_setScript_complete] at ht
  simp only [State.runLine, hn, if_false, ha, hb, andThen_next, ht]
  rfl

/-- A line answers next by being passed over, or by one transaction. -/
theorem State.runLine_eq_next {s t : State} {l : ScriptLine} {rest : List ScriptLine}
    (h : s.runLine l rest = .next t) :
    (l.times = 0 ∧ t = s.setScript rest) ∨
    (l.times ≠ 0 ∧ ∃ a b, s.operandWord l.a = .next a ∧ s.operandWord l.b = .next b ∧
      t = s.afterLine l rest a b) := by
  by_cases hn : l.times = 0
  · simp only [State.runLine, hn, if_true] at h
    cases h
    exact .inl ⟨hn, rfl⟩
  · have h' := h
    simp only [State.runLine, hn, if_false] at h'
    obtain ⟨a, ha, h'⟩ := andThen_eq_next h'
    obtain ⟨b, hb, -⟩ := andThen_eq_next h'
    rw [State.runLine_of_operands hn ha hb] at h
    cases h
    exact .inr ⟨hn, a, b, ha, hb, rfl⟩

theorem step_of_script {s : State} {l : ScriptLine} {rest : List ScriptLine} (h : s.script = l :: rest) :
    step s = s.runLine l rest := by
  simp [step, h]

theorem step_of_no_script {s : State} (h : s.script = []) : step s = s.transact := by
  simp [step, h]

/-- Everything a step that answers next can do. -/
theorem step_cases {s t : State} (h : step s = .next t) :
    (s.script = [] ∧ s.portWord = none ∧ t = s) ∨
    (s.script = [] ∧ ∃ a b, s.changing = false ∧ s.a = some a ∧ s.b = some b ∧ t = s.complete a b (addflt a b)) ∨
    (∃ l rest, s.script = l :: rest ∧ l.times = 0 ∧ t = s.setScript rest) ∨
    (∃ l rest a b, s.script = l :: rest ∧ l.times ≠ 0 ∧ s.operandWord l.a = .next a ∧
      s.operandWord l.b = .next b ∧ t = s.afterLine l rest a b) := by
  cases hs : s.script with
  | nil =>
    rw [step_of_no_script hs] at h
    obtain ⟨hp, ht⟩ | ht := State.transact_eq_next h
    · exact .inl ⟨rfl, hp, ht⟩
    · exact .inr (.inl ⟨rfl, ht⟩)
  | cons l rest =>
    rw [step_of_script hs] at h
    obtain ⟨hn, ht⟩ | ⟨hn, a, b, ha, hb, ht⟩ := State.runLine_eq_next h
    · exact .inr (.inr (.inl ⟨l, rest, rfl, hn, ht⟩))
    · exact .inr (.inr (.inr ⟨l, rest, a, b, rfl, hn, ha, hb, ht⟩))

end Sys2Proof.Machine
end

