-- ==== Sys2Proof/Laws/Run.lean ====
section
/-! SUPPORT. Runs, one step at a time. -/

namespace Sys2Proof.Machine

@[simp] theorem State.run_zero (s : State) : State.run 0 s = .next s := rfl

/-- A run is its first step, then the rest of the run. -/
theorem State.run_succ (k : Nat) (s : State) : State.run (k + 1) s = andThen (step s) (State.run k) := rfl

theorem run_of_next {M : Host.Core} {k : Nat} {s t : M.State} (h : M.step s = .next t) :
    M.run (k + 1) s = M.run k t := by
  simp only [Host.Core.run, h]

theorem run_of_fault {M : Host.Core} {k : Nat} {s : M.State} {r : M.Fault} (h : M.step s = .fault r) :
    M.run (k + 1) s = .fault r := by
  simp only [Host.Core.run, h]

theorem run_of_refused {M : Host.Core} {k : Nat} {s : M.State} {r : M.Refusal} (h : M.step s = .refused r) :
    M.run (k + 1) s = .refused r := by
  simp only [Host.Core.run, h]

/-- `State.run` is the run of the machine that the host reads. -/
theorem State.run_eq_core (k : Nat) (s : State) : State.run k s = Sys2Proof.core.run k s := by
  induction k generalizing s with
  | zero => rfl
  | succ k ih =>
    rw [State.run_succ]
    cases hs : step s with
    | next t => exact (ih t).trans (run_of_next (M := Sys2Proof.core) hs).symm
    | fault r => exact (run_of_fault (M := Sys2Proof.core) hs).symm
    | refused r => exact (run_of_refused (M := Sys2Proof.core) hs).symm

end Sys2Proof.Machine
end

