-- ==== Sys2Proof/Tests/Slice0.lean ====
section
/-! SUPPORT. The model's own tests, and a witness for the hypotheses of each statement that has some. Expected
values are those of spec/95_test_vectors.md unless a comment says otherwise. -/

namespace Sys2Proof.Tests
open Sys2Proof.Machine

section helpers
variable {σ : Type}

/-- The value an outcome answers with. -/
def value? (o : Host.Outcome σ Fault Refusal) : Option σ :=
  match o with
  | .next s => some s
  | _ => none

def fault? (o : Host.Outcome σ Fault Refusal) : Option Fault :=
  match o with
  | .fault r => some r
  | _ => none

def refusal? (o : Host.Outcome σ Fault Refusal) : Option Refusal :=
  match o with
  | .refused r => some r
  | _ => none

end helpers

/-- The block with both input ports driven and no script. -/
def driven (a b : Word) : State := State.reset.present a b

/-- The block after the transaction on (a, b), with the host keeping some results. -/
def completed (a b : Word) (results : List (Nat × Word)) (script : List ScriptLine) : State :=
  { a := some a, b := some b, y := some (addflt a b), last := some (a, b), moved := none, script := script, results := results }

/-! ## Smoke tests of the well-formedness checks -/

/-- A line that names a later result is ill formed (R73). -/
theorem test_wf_refuses_later_result :
    scriptWf [⟨1, .result 2, .lit 0#32, 1⟩, ⟨2, .lit 0#32, .lit 0#32, 1⟩] = false := by decide

/-- A script that begins by feeding back a y that has no value is ill formed (R141). -/
theorem test_wf_refuses_previous_first : scriptWf [⟨1, .previous, .lit 0#32, 1⟩] = false := by decide

/-- Two lines with one number are ill formed (R73). -/
theorem test_wf_refuses_equal_labels :
    scriptWf [⟨1, .lit 0#32, .lit 0#32, 1⟩, ⟨1, .lit 0#32, .lit 0#32, 1⟩] = false := by decide

/-- 95_test_vectors.md 4.2 is well formed. -/
theorem test_wf_accepts_feedback :
    scriptWf [⟨1, .lit 0#32, .lit 0#32, 1⟩, ⟨2, .previous, .lit 0#32, 5⟩] = true := by decide

/-! ## Decoding: words written from the layout of R67, field by field -/

/-- EA 0x81, then a's low 24 bits, then EB 0x80, then b's low 24 bits. -/
theorem test_decode_addflt_fields :
    decode (0b10000001#8 ++ 0b000000000000000000000001#24 ++ 0b10000000#8 ++ 0b000000000000000000000000#24) =
      .addflt 0x81000001#32 0x80000000#32 := by decide

/-- The same word (95_test_vectors.md 4.1, t1) as one number, through the table's numbering. -/
theorem test_decode_table_word :
    decodeTableWord 64 0x8100000180000000 = some (.addflt 0x81000001#32 0x80000000#32) := by decide

/-- A shorter and a wider string are rejected by name (R71). -/
theorem test_decode_rejects_other_widths :
    (decodeBits 32 0).isOk = false ∧ decodeTableWord 56 0 = none ∧ decodeTableWord 65 0 = none := by decide

/-! ## The operation -/

/-- Sections 3.1 to 3.4: a, b, mb, sum, y of this hardware, and y under MASK5. -/
def vectors : List (Word × Word × Word × Word × Word × Word) :=
  [(0xAB000000, 0xAA000000, 0x55000000, 0x00000000, 0x0000002B, 0x0000002B),
   (0xCD400000, 0xCB000000, 0x32C00000, 0x00000000, 0x0000004D, 0x0000004D),
   (0xFFFFFFFF, 0xE0000000, 0x00000001, 0x00000000, 0x0000007F, 0x0000007F),
   (0x9F000000, 0x80000000, 0x00000001, 0x9F000001, 0x00000020, 0x00000020),
   (0x80000001, 0x7FFFFFFF, 0x3FFFFFFF, 0xC0000000, 0x00000001, 0x00000001),
   (0xFF000000, 0xFF000000, 0xFF000000, 0xFE000000, 0x00000080, 0x00000080),
   (0xFFFFFFFF, 0xFFFFFFFF, 0xFFFFFFFF, 0xFFFFFFFE, 0x00000080, 0x00000080),
   (0x00000001, 0x00000000, 0x00000000, 0x00000001, 0xFFFFFF81, 0xFFFFFF81),
   (0x00FFFFFF, 0x00000001, 0x00000001, 0x01000000, 0xFFFFFF81, 0xFFFFFF81),
   (0x80000000, 0x81000001, 0x02000002, 0x82000002, 0x00000001, 0x00000001),
   (0x7FFFFFFF, 0x80000001, 0x00000002, 0x80000001, 0x00000000, 0x00000000),
   (0x7F000000, 0x80000000, 0x00000000, 0x7F000000, 0x00000000, 0x00000000),
   (0xFE000001, 0xFF000000, 0xFE000000, 0xFC000001, 0x0000007F, 0x0000007F),
   (0x31FC0000, 0x33810000, 0xCE040000, 0x00000000, 0xFFFFFFB1, 0xFFFFFFB2),
   (0x80000000, 0x9F000000, 0x00000000, 0x80000000, 0x00000001, 0x00000001),
   (0x00000000, 0x1F000000, 0x00000000, 0x00000000, 0xFFFFFF80, 0xFFFFFF81),
   (0xA0000000, 0x80000000, 0x00000000, 0xA0000000, 0x00000021, 0x00000021),
   (0xFFFFFFFF, 0x00000000, 0x00000000, 0xFFFFFFFF, 0x00000080, 0x00000080),
   (0x80000000, 0xA0000000, 0x00000000, 0x80000000, 0x00000001, 0x00000001),
   (0x01000000, 0xFFFFFFFF, 0x00000000, 0x01000000, 0xFFFFFF82, 0xFFFFFF82),
   (0x00000000, 0xFFFFFFFF, 0x00000000, 0x00000000, 0xFFFFFF80, 0xFFFFFF81),
   (0xA0000000, 0x60000000, 0x00000000, 0xA0000000, 0x00000021, 0x00000020),
   (0x60000000, 0xA0000000, 0x00000000, 0x60000000, 0xFFFFFFE1, 0xFFFFFFE0),
   (0xC0000000, 0x40000000, 0x00000000, 0xC0000000, 0x00000041, 0x00000040),
   (0x40000000, 0xC0000000, 0x00000000, 0x40000000, 0xFFFFFFC1, 0xFFFFFFC0),
   (0x54FE0000, 0x55810000, 0xAB020000, 0x00000000, 0xFFFFFFD4, 0xFFFFFFD5),
   (0x00000000, 0x81000000, 0x00000000, 0x00000000, 0xFFFFFF80, 0xFFFFFF81)]

/-- Every vector, with its inner nets, under both policies (R110). -/
theorem test_addflt_vectors :
    (vectors.all fun (a, b, mb, sum, y, y5) =>
      (evaluate satBidirOor a b).mb == mb && (evaluate satBidirOor a b).sum == sum &&
      addflt a b == y && addfltWith mask5Oor a b == y5) = true := by decide

/-- The source's worked example (R94, 95_test_vectors.md 1.3) as one step on driven ports. -/
theorem test_addflt_step :
    (value? (step (driven 0x81000001#32 0x80000000#32))).map State.y = some (some 2#32) := by decide

/-! ## The shifter and the written form -/

/-- Section 2.3: mb0, delta, mb of this hardware, and mb under MASK5. -/
theorem test_shifter_vectors :
    (([(0x12345678, 4, 0x01234567, 0x01234567), (0xE0000000, 31, 1, 1), (0x7FFFFFFF, 31, 0, 0),
       (0xFFFFFFFF, 32, 0, 0xFFFFFFFF), (0xFFFFFFFF, 255, 0, 1), (0x81000001, -1, 0x02000002, 1),
       (0x12345678, -4, 0x23456780, 1), (1, -31, 0x80000000, 0), (0x9F000000, -31, 0, 0x4F800000),
       (0xFFFFFFFF, -32, 0, 0xFFFFFFFF), (0xA0000000, -64, 0, 0xA0000000), (0xFFFFFFFF, -255, 0, 0x7FFFFFFF)] :
      List (Word × Int × Word × Word)).all fun (mb0, delta, mb, mb5) =>
      shifter satBidirOor mb0 (BitVec.ofInt 9 delta) == mb && gateShifter mb0 (BitVec.ofInt 9 delta) == mb &&
      shifter mask5Oor mb0 (BitVec.ofInt 9 delta) == mb5) = true := by decide

/-- R72's example: `ADDFLT y, 0x81000001, 0x80000000` gives `y = 0x00000002`. -/
theorem test_written_form :
    readInstr ['A', 'D', 'D', 'F', 'L', 'T', ' ', 'y', ',', ' ', '0', 'x', '8', '1', '0', '0', '0', '0', '0', '1',
      ',', ' ', '0', 'x', '8', '0', '0', '0', '0', '0', '0', '0'] = some (.addflt 0x81000001#32 0x80000000#32) ∧
    renderResult (addflt 0x81000001#32 0x80000000#32) =
      ['y', ' ', '=', ' ', '0', 'x', '0', '0', '0', '0', '0', '0', '0', '2'] := by decide

/-- 95_test_vectors.md 4.1, line t3: `t3: ADDFLT y3, y2, y1`. -/
theorem test_written_line :
    readLine ['t', '3', ':', ' ', 'A', 'D', 'D', 'F', 'L', 'T', ' ', 'y', '3', ',', ' ', 'y', '2', ',', ' ', 'y', '1'] =
      some ⟨3, .result 2, .result 1, 1⟩ := by decide

/-! ## Witnesses: a concrete state and operands for the hypotheses of each statement -/

/-- InRangeShiftIsLogicalRight and PolicyIndependence: delta 0 and delta 31. -/
theorem witness_in_range :
    (evaluate satBidirOor 0x80000000#32 0x80000000#32).delta.toInt = 0 ∧
    (evaluate satBidirOor 0x9F000000#32 0x80000000#32).delta.toInt = 31 := by decide

/-- SatBidirShiftRegions and Mask5ShiftsByDeltaMod32: the ends of every region of delta. -/
theorem witness_shift_regions :
    ([0, 31, 32, 255, -1, -31, -32, -255] : List Int).all
      (fun d => decide ((BitVec.ofInt 9 d).toInt = d ∧ -255 ≤ (BitVec.ofInt 9 d).toInt)) = true := by decide

/-- TransactionAlwaysCompletes, StepRunsDecodedInstruction, SamePairSameResult and FirstEvaluationCompletesPair: a
pair on the ports, no script and no change in progress. -/
theorem witness_driven :
    (driven 1#32 2#32).script = [] ∧ (driven 1#32 2#32).a = some 1#32 ∧ (driven 1#32 2#32).b = some 2#32 ∧
    (driven 1#32 2#32).changing = false := by decide

/-- SamePairSameResult and FirstEvaluationCompletesPair: the same with a port moved alone, which carries its old
word, and the invariant. -/
theorem witness_redriven :
    let s := (driven 1#32 2#32).driveA 1#32
    s.script = [] ∧ s.a = some 1#32 ∧ s.b = some 2#32 ∧ s.last = some (1#32, 2#32) ∧ s.changing = false ∧
    s.invariant = true ∧ s.moved = some .a := by decide

/-- R45: an evaluation between the drives of a with its old word and of b leaves the new pair to be completed. -/
theorem test_evaluation_between_drives :
    (value? (step ((driven 1#32 2#32).driveA 1#32))).map (fun t => (t.driveB 5#32).last) =
      some (some (1#32, 5#32)) := by decide

/-- OtherWidthsRejected: the widths on either side of 64. -/
theorem witness_other_widths : 63 ≠ 64 ∧ 65 ≠ 64 := by decide

/-- PrimaryFunctionalLaw: delta 0 and delta 31, from the bytes. -/
theorem witness_primary_law :
    ((0x9F000000#32 >>> 24).toNat : Int) - ((0x80000000#32 >>> 24).toNat : Int) = 31 ∧
    ((0x80000000#32 >>> 24).toNat : Int) - ((0x80000000#32 >>> 24).toNat : Int) = 0 := by decide

/-- ResultIsOneOfTwo and PolicyIndependence: equal nz for two different b, and for two policies out of range. -/
theorem witness_equal_nz :
    (evaluate satBidirOor 0x81000001#32 0x80000000#32).nz = (evaluate satBidirOor 0x81000001#32 0#32).nz ∧
    (evaluate satBidirOor 0xA0000000#32 0x80000000#32).nz = (evaluate mask5Oor 0xA0000000#32 0x80000000#32).nz := by
  decide

/-- NotIncrementedIffNegation: a is 0, and both values of nz occur. -/
theorem witness_negation :
    (evaluate satBidirOor 0#32 0#32).nz = false ∧ (evaluate satBidirOor 0#32 1#32).nz = true ∧
    (evaluate satBidirOor 0x54FE0000#32 0x55810000#32).nz = false := by decide

/-- SaturatedShiftLeavesA: |delta| is 32 on either side, with ea above −128, and the largest |delta|. -/
theorem witness_saturated :
    (evaluate satBidirOor 0xA0000000#32 0x80000000#32).delta.toInt = 32 ∧
    (evaluate satBidirOor 0x80000000#32 0xA0000000#32).delta.toInt = -32 ∧
    (evaluate satBidirOor 0#32 0xFF000000#32).delta.toInt = -255 ∧ -128 < (exponent 0x01000000#32).toInt := by decide

/-- BothExponentFieldsZero: the largest and the smallest such words. -/
theorem witness_fields_zero : exponentField 0x00FFFFFF#32 = 0#8 ∧ exponentField 0#32 = 0#8 := by decide

/-- SameWordOnBothPorts: a word that is neither of the two whose double is zero. -/
theorem witness_same_word : (0x80000001#32 ≠ 0#32) ∧ 0x80000001#32 ≠ 0x80000000#32 := by decide

/-- ResultValueSet: the ends of both ranges. -/
theorem witness_value_set :
    (0x80#32).toNat ≤ 0x80 ∧ (0#32).toNat ≤ 0x80 ∧ 0xFFFFFF80 ≤ (0xFFFFFF80#32).toNat ∧
    0xFFFFFF80 ≤ (0xFFFFFFFF#32).toNat := by decide

/-- DecodeEncodeInverse: a well-formed instruction. -/
theorem witness_wf : (Instr.addflt 0xFFFFFFFF#32 0#32).wf = true := by decide

/-- ScriptStepRunsDecodedInstruction: a line whose operands are a kept result and the previous y. -/
theorem witness_script_step :
    let s := completed 0x81000001#32 0x80000000#32 [(1, 2#32)] [⟨2, .result 1, .previous, 1⟩]
    s.script = [⟨2, .result 1, .previous, 1⟩] ∧ (⟨2, .result 1, .previous, 1⟩ : ScriptLine).times ≠ 0 ∧
    value? (s.operandWord (.result 1)) = some 2#32 ∧ value? (s.operandWord .previous) = some 2#32 := by decide

/-- RepeatedLineRunsItsCount: a line to be run twice on a kept result and the previous y, a literal line to be
run twice, and a line with such operands to be run no time. -/
theorem witness_repeat :
    let l : ScriptLine := ⟨2, .result 1, .previous, 1 + 1⟩
    let s := completed 0x81000001#32 0x80000000#32 [(1, 2#32)] [l]
    s.script = [l] ∧ l.times = 1 + 1 ∧ value? (s.operandWord l.a) = some 2#32 ∧
    value? (s.operandWord l.b) = some 2#32 ∧ (value? (State.run 2 s)).isSome = true ∧
    (State.load [⟨1, .lit 3#32, .lit 4#32, 2⟩]).script = [⟨1, .lit 3#32, .lit 4#32, 2⟩] ∧
    (State.load [⟨1, .previous, .result 7, 0⟩]).script = [⟨1, .previous, .result 7, 0⟩] := by decide

/-- RepeatedLineFeedsBack: 95_test_vectors.md 4.2 after t1, with its first repetition's y. -/
theorem witness_feeds_back :
    let l : ScriptLine := ⟨2, .previous, .lit 0#32, 4 + 1⟩
    let s := completed 0#32 0#32 [(1, 0xFFFFFF80#32)] [l]
    s.script = [l] ∧ l.times = 4 + 1 ∧ value? s.readY = some 0xFFFFFF80#32 ∧
    (value? (step s)).map State.y = some (some 0x80#32) := by decide

/-- UnavailableOperandStops, first clause: a names a result that is not kept. -/
theorem witness_unavailable_result_a :
    3 ∉ (completed 0#32 0#32 [(1, 2#32)] [⟨2, .result 3, .lit 0#32, 1⟩]).results.map Prod.fst ∧
    refusal? (step (completed 0#32 0#32 [(1, 2#32)] [⟨2, .result 3, .lit 0#32, 1⟩])) = some (.notEarlierResult 3) := by
  decide

/-- UnavailableOperandStops, second clause: a feeds back a y that has no value. -/
theorem witness_unavailable_previous_a :
    (State.load [⟨1, .previous, .lit 0#32, 1⟩]).last = none ∧
    fault? (step (State.load [⟨1, .previous, .lit 0#32, 1⟩])) = some .noTransaction := by decide

/-- UnavailableOperandStops, third clause: a is a literal, b names a result that is not kept. -/
theorem witness_unavailable_result_b :
    1 ∉ (State.load [⟨1, .lit 0#32, .result 1, 1⟩]).results.map Prod.fst ∧
    refusal? (step (State.load [⟨1, .lit 0#32, .result 1, 1⟩])) = some (.notEarlierResult 1) := by decide

/-- UnavailableOperandStops, fourth clause: a is a literal, b feeds back a y that has no value. -/
theorem witness_unavailable_previous_b :
    fault? (step (State.load [⟨1, .lit 0#32, .previous, 1⟩])) = some .noTransaction := by decide

/-- OperandNamesEarlierResult: the newest of two results kept under one number, and a completed pair. -/
theorem witness_operand_names :
    (completed 0#32 0#32 ([(2, 5#32)] ++ (1, 7#32) :: [(1, 9#32)]) []).results = [(2, 5#32), (1, 7#32), (1, 9#32)] ∧
    1 ∉ ([(2, 5#32)] : List (Nat × Word)).map Prod.fst ∧ (completed 0#32 0#32 [] []).last = some (0#32, 0#32) := by decide

/-- UndrivenPortsIdle: each port undriven. -/
theorem witness_undriven :
    (State.reset.driveA 1#32).script = [] ∧ (State.reset.driveA 1#32).b = none ∧
    (State.reset.driveB 1#32).script = [] ∧ (State.reset.driveB 1#32).a = none := by decide

/-- UnfinishedChangeIsNoTransaction and PortSampleOnlyCompletedPair: one operand moved, the other not. -/
theorem witness_changing :
    ((driven 1#32 2#32).driveA 3#32).script = [] ∧ ((driven 1#32 2#32).driveA 3#32).changing = true ∧
    ((driven 1#32 2#32).driveA 3#32).invariant = true ∧
    refusal? ((driven 1#32 2#32).driveA 3#32).samplePort = some .operandsChanging := by decide

/-- OutputFollowsInputs and PortSampleOnlyCompletedPair: an undriven port, and both driven, under the invariant. -/
theorem witness_output_follows :
    (State.reset.driveA 1#32).invariant = true ∧ (State.reset.driveA 1#32).b = none ∧
    fault? (State.reset.driveA 1#32).samplePort = some .noTransaction ∧
    ((State.reset.driveA 0x81000001#32).driveB 0x80000000#32).invariant = true ∧
    value? ((State.reset.driveA 0x81000001#32).driveB 0x80000000#32).samplePort = some 2#32 := by decide

/-- OutputIsCombinational: a port that carries a value while the other is driven. -/
theorem witness_combinational : (driven 1#32 2#32).a = some 1#32 ∧ (driven 1#32 2#32).b = some 2#32 := by decide

/-- DrivingBothPortsCompletesPair, EvaluationLeavesChangeOpen and EnvironmentKeepsInvariant: after reset, and after a transaction. -/
theorem witness_driving :
    State.reset.invariant = true ∧ State.reset.moved = none ∧ State.reset.script = [] ∧
    (driven 1#32 2#32).invariant = true ∧ (driven 1#32 2#32).script = [] ∧
    (driven 1#32 2#32).moved = none ∧ (driven 1#32 2#32).last = some (1#32, 2#32) := by decide

/-- StepKeepsInvariant and PortSampleOnlyCompletedPair: the invariant at a state whose step runs a line that feeds back two results. -/
theorem witness_invariant_step :
    (completed 0x81000001#32 0x80000000#32 [(1, 2#32)] [⟨2, .result 1, .previous, 3⟩]).invariant = true ∧
    (value? (step (completed 0x81000001#32 0x80000000#32 [(1, 2#32)] [⟨2, .result 1, .previous, 3⟩]))).isSome = true := by
  decide

/-- ReadyScriptStepStaysReady and ReadyScriptNeverStops: a state and a script that meet its hypotheses, with a repeated line. -/
theorem witness_ready_script :
    (completed 0#32 0#32 [(1, 2#32)] [⟨2, .result 1, .previous, 3⟩]).scriptReady = true ∧
    scriptWf [⟨1, .lit 0#32, .lit 0#32, 1⟩, ⟨2, .previous, .result 1, 5⟩] = true := by decide

/-- ResultsIndependentOfHistory: one literal script on two machines with different histories. -/
theorem witness_histories :
    (completed 1#32 2#32 [(9, 0#32)] [⟨1, .lit 3#32, .lit 4#32, 2⟩]).script =
      (State.load [⟨1, .lit 3#32, .lit 4#32, 2⟩]).script ∧
    (value? (State.run 1 (completed 1#32 2#32 [(9, 0#32)] [⟨1, .lit 3#32, .lit 4#32, 2⟩]))).isSome = true ∧
    (value? (State.run 1 (State.load [⟨1, .lit 3#32, .lit 4#32, 2⟩]))).isSome = true := by decide

/-- ResultsIndependentOfHistory: every operand of that script is a literal. -/
theorem witness_histories_literal :
    ∀ l ∈ (State.load [⟨1, .lit 3#32, .lit 4#32, 2⟩]).script, (∃ w, l.a = .lit w) ∧ ∃ w, l.b = .lit w := by
  intro l hl
  rw [List.mem_singleton.1 hl]
  exact ⟨⟨3#32, rfl⟩, ⟨4#32, rfl⟩⟩

end Sys2Proof.Tests
end

section
/-! The same pair again (20_memory.md R45): the states in which a step with no script changes nothing, and the
evaluations that lead to one. -/

namespace Sys2Proof.Machine

/-! ## The parts of the invariant -/

theorem State.invariant_iff {s : State} :
    s.invariant = true ↔
      s.resultsShaped = true ∧ s.recordSound = true ∧ s.portSound = true ∧ s.movedSound = true := by
  simp only [State.invariant, Bool.and_eq_true, and_assoc]

theorem State.portSound_iff {s : State} : s.portSound = true ↔ s.y = portOutput s.a s.b := by
  simp only [State.portSound, beq_iff_eq]

theorem State.recordSound_iff {s : State} :
    s.recordSound = true ↔
      s.last.isSome = s.pair.isSome ∧ (s.results.isEmpty = true ∨ s.last.isSome = true) := by
  simp only [State.recordSound, Bool.and_eq_true, Bool.or_eq_true, beq_iff_eq]

theorem State.movedSound_of_moved_none {s : State} (hm : s.moved = none) :
    s.movedSound = true ↔ s.last = s.pair ∧ s.a.isSome = s.b.isSome := by
  simp only [State.movedSound, hm, Bool.and_eq_true, beq_iff_eq]

/-- Before a change of operands is begun, each port carries a value exactly when a pair was completed. -/
theorem State.last_isSome_of_moved_none {s : State} (hi : s.invariant = true) (hm : s.moved = none) :
    s.last.isSome = s.a.isSome ∧ s.last.isSome = s.b.isSome := by
  obtain ⟨-, -, -, hmoved⟩ := State.invariant_iff.1 hi
  obtain ⟨hlast, hab⟩ := (State.movedSound_of_moved_none hm).1 hmoved
  simp [hlast, State.pair, hab]

/-! ## Completing and presenting a pair again -/

/-- Once some pair was completed, the ports of a state with no change in progress carry that pair. -/
theorem State.last_eq_pair_of_not_changing {s : State} (hc : s.changing = false) (hl : s.last.isSome = true) :
    s.last = s.pair := by
  simpa [State.changing, hl] using hc

/-- Completing the pair that the ports carry writes y, the record of the pair, and the mark of a port moved
alone. -/
theorem State.complete_of_ports {s : State} {a b : Word} (y : Word) (ha : s.a = some a) (hb : s.b = some b) :
    s.complete a b y =
      { s with y := some y, last := some (a, b), moved := if s.last = some (a, b) then s.moved else none } := by
  have hholds : s.holds a b = true ↔ s.last = some (a, b) := by simp [State.holds_iff, ha, hb]
  simp only [State.complete, hholds, ha, hb]

@[simp] theorem State.complete_complete (s : State) (a b y : Word) :
    (s.complete a b y).complete a b y = s.complete a b y :=
  State.complete_of_holds y (s.complete_holds a b y)

/-- Presenting a pair forgets which pair was presented before. -/
@[simp] theorem State.present_present (s : State) (a b a' b' : Word) :
    (s.present a' b').present a b = s.present a b := rfl

/-! ## Steps and runs that change nothing -/

/-- A step with no script changes nothing when y follows the ports and a pair is recorded exactly when both ports
carry a value: the ports then carry no transaction word, or the most recent pair once more. -/
theorem step_eq_self {s : State} (hs : s.script = []) (hy : s.y = portOutput s.a s.b)
    (hl : s.last.isSome = s.pair.isSome) : step s = .next s := by
  rw [step_of_no_script hs]
  cases hw : s.portWord with
  | none => exact State.transact_of_no_word hw
  | some T =>
    obtain ⟨a, b, hc, ha, hb, -⟩ := State.portWord_eq_some hw
    have hpair : s.pair = some (a, b) := by simp [State.pair, ha, hb]
    have hlast : s.last = some (a, b) :=
      (State.last_eq_pair_of_not_changing hc (by simp [hl, hpair])).trans hpair
    have hy' : s.y = some (addflt a b) := by simp [hy, ha, hb]
    rw [State.transact_of_ports hc ha hb, State.complete_of_holds _ (State.holds_iff.2 ⟨ha, hb, hlast⟩), ← hy']

theorem step_eq_self_of_invariant {s : State} (hs : s.script = []) (hi : s.invariant = true) :
    step s = .next s := by
  obtain ⟨-, hrecord, hport, -⟩ := State.invariant_iff.1 hi
  exact step_eq_self hs (State.portSound_iff.1 hport) (State.recordSound_iff.1 hrecord).1

theorem State.run_eq_self {s : State} (h : step s = .next s) (k : Nat) : State.run k s = .next s := by
  induction k with
  | zero => rfl
  | succ k ih => rw [State.run_succ, h, andThen_next, ih]

/-- The first of several evaluations of a pair is the transaction on it; the others change nothing. -/
theorem State.run_succ_of_ports {s : State} {a b : Word} (k : Nat) (hs : s.script = []) (ha : s.a = some a)
    (hb : s.b = some b) (hc : s.changing = false) :
    State.run (k + 1) s = .next (s.complete a b (addflt a b)) := by
  have hfirst : step s = .next (s.complete a b (addflt a b)) := by
    rw [step_of_no_script hs, State.transact_of_ports hc ha hb]
  have hagain : step (s.complete a b (addflt a b)) = .next (s.complete a b (addflt a b)) :=
    step_eq_self hs rfl rfl
  rw [State.run_succ, hfirst, andThen_next, State.run_eq_self hagain]

/-! ## Steps between the drives of the two ports -/

/-- The drive of `a` that begins a change leaves a state in which a step changes nothing. -/
theorem step_driveA_eq_self {s : State} (w : Word) (hi : s.invariant = true) (hm : s.moved = none)
    (hs : s.script = []) : step (s.driveA w) = .next (s.driveA w) := by
  rw [State.driveA_of_not_moved w (.inl (by simp [hm]))]
  exact step_eq_self hs rfl (by simp [State.pair, (State.last_isSome_of_moved_none hi hm).2])

/-- The drive of `b` that begins a change leaves a state in which a step changes nothing. -/
theorem step_driveB_eq_self {s : State} (w : Word) (hi : s.invariant = true) (hm : s.moved = none)
    (hs : s.script = []) : step (s.driveB w) = .next (s.driveB w) := by
  rw [State.driveB_of_not_moved w (.inl (by simp [hm]))]
  exact step_eq_self hs rfl (by simp [State.pair, (State.last_isSome_of_moved_none hi hm).1])

/-- With no change begun, driving `a` and then `b` presents the pair. -/
theorem State.driveB_driveA {s : State} (a b : Word) (hm : s.moved = none) :
    (s.driveA a).driveB b = s.present a b := by
  rw [State.driveA_of_not_moved a (.inl (by simp [hm])), State.driveB_of_moved b rfl rfl]
  rfl

/-- With no change begun, driving `b` and then `a` presents the pair. -/
theorem State.driveA_driveB {s : State} (a b : Word) (hm : s.moved = none) :
    (s.driveB b).driveA a = s.present a b := by
  rw [State.driveB_of_not_moved b (.inl (by simp [hm])), State.driveA_of_moved a rfl rfl]
  rfl

/-! ## The obligations -/

/-- Settles O38: the first step completes the pair, and the state it leaves is one that steps do not change. -/
theorem firstEvaluationCompletesPair : Obligations.FirstEvaluationCompletesPair := by
  intro s a b k hs ha hb hc
  rw [State.run_succ_of_ports k hs ha hb hc, State.complete_of_ports _ ha hb]

/-- Settles O37: completing and presenting are idempotent, and an evaluation of the most recent pair writes y
alone. -/
theorem samePairSameResult : Obligations.SamePairSameResult := by
  refine ⟨fun s a b => ⟨s.complete a b (addflt a b), rfl, rfl, by simp⟩, fun s a b k hs ha hb hl => ⟨?_, ?_⟩,
    fun s a b k => ?_⟩
  · have hc : s.changing = false := State.not_changing (.inr (by simp [hl, State.pair, ha, hb]))
    rw [State.run_succ_of_ports k hs ha hb hc, State.complete_of_holds _ (State.holds_iff.2 ⟨ha, hb, hl⟩)]
  · intro hi
    exact State.run_eq_self (step_eq_self_of_invariant hs hi) (k + 1)
  · rw [Function.iterate_succ_apply]
    exact Function.iterate_fixed (s.present_present a b a b) k

/-- Settles O39: the state between the two drives is one that steps do not change, and the second drive presents
the pair. -/
theorem evaluationLeavesChangeOpen : Obligations.EvaluationLeavesChangeOpen := by
  intro s a b k hi hm hs
  exact ⟨⟨State.run_eq_self (step_driveA_eq_self a hi hm hs) k, State.driveB_driveA a b hm⟩,
    State.run_eq_self (step_driveB_eq_self b hi hm hs) k, State.driveA_driveB a b hm⟩

end Sys2Proof.Machine
end

section
/-! The encodings (30_encoding.md): the exponent of a packed word, the transaction word and its fields, and the
decoder on strings of every length. -/

namespace Sys2Proof

/-! ## The transaction word (R67) -/

theorem toNat_encode_addflt (a b : Word) : (encode (.addflt a b)).toNat = a.toNat * 2 ^ 32 + b.toNat := by
  rw [encode, BitVec.toNat_append, ← Nat.shiftLeft_add_eq_or_of_lt b.isLt, Nat.shiftLeft_eq]

/-- The exponent field of a is the top byte of field A: the fields overlap (R61). -/
theorem Pair64.fieldEA_eq (T : Pair64) : T.fieldEA = T.fieldA.extractLsb' 24 8 := by
  ext k hk
  have hbit : 24 + k < 32 := by omega
  simp [Pair64.fieldEA, Pair64.fieldA, hbit, ← Nat.add_assoc]

/-- The exponent field of b is the top byte of field B: the fields overlap (R61). -/
theorem Pair64.fieldEB_eq (T : Pair64) : T.fieldEB = T.fieldB.extractLsb' 24 8 := by
  ext k hk
  simp [Pair64.fieldEB, Pair64.fieldB]

/-! ## The decoder on a string of any length (R68, R71) -/

theorem decodeTableWord_pair64 (w : Nat) : decodeTableWord 64 w = some (decode (BitVec.ofNat 64 w)) := by
  rw [decodeTableWord, decodeBits_pair64]

theorem decodeTableWord_of_ne {nbits : Nat} (h : nbits ≠ 64) (w : Nat) : decodeTableWord nbits w = none := by
  rw [decodeTableWord, decodeBits_of_ne h]

namespace Machine

/-- A string that is not 64 bits long is placed nowhere (log entry 5). -/
theorem State.withFetchWord_of_ne {nbits : Nat} (h : nbits ≠ 64) (s : State) (w : Nat) :
    s.withFetchWord nbits w = s :=
  if_neg h

/-- Executing a transaction word is the transaction on its fields A and B. -/
theorem exec_decode (T : Pair64) (s : State) :
    exec (decode T) s = .next (s.complete T.fieldA T.fieldB (addflt T.fieldA T.fieldB)) :=
  exec_addflt T.fieldA T.fieldB s

/-! ## The exponent of a packed word (R60, R62) -/

theorem toNat_exponentField (w : Word) : (exponentField w).toNat = (w >>> 24).toNat := by
  have hbyte : w.toNat >>> 24 < 2 ^ 8 := by omega
  rw [exponentField, Config.expLo, BitVec.extractLsb'_toNat, BitVec.toNat_ushiftRight, Nat.mod_eq_of_lt hbyte]

/-- A byte less the bias lies in the range of s8, so that narrowing the nine-bit difference loses nothing. -/
theorem toInt_byte_sub_bias (e : BitVec 8) :
    ((e.setWidth 9 - Config.bias).setWidth 8).toInt = (e.toNat : Int) - 128 := by
  have hpattern : ((e.setWidth 9 - Config.bias).setWidth 8).toNat = (e.toNat + 128) % 256 := by
    simp only [Config.bias, BitVec.toNat_setWidth, BitVec.toNat_sub, BitVec.toNat_ofNat]
    omega
  rw [BitVec.toInt_eq_toNat_cond, hpattern]
  split <;> omega

theorem toInt_exponent (w : Word) : (exponent w).toInt = ((exponentField w).toNat : Int) - 128 :=
  toInt_byte_sub_bias (exponentField w)

/-! ## The obligations -/

/-- Settles O1: the exponent field is a byte, and the bias is subtracted from it without overflow. -/
theorem exponentDecode : Obligations.ExponentDecode := by
  intro w
  have hfield := toNat_exponentField w
  have hexp := toInt_exponent w
  have hbyte : (exponentField w).toNat < 256 := (exponentField w).isLt
  refine ⟨hfield, ?_, ?_, ?_, ?_⟩ <;> omega

/-- Settles O3: the four nets that take the operands in. -/
theorem operandsPassUnmasked : Obligations.OperandsPassUnmasked := fun oor a b =>
  ⟨evaluate_ma oor a b, evaluate_mb0 oor a b, evaluate_ea oor a b, evaluate_eb oor a b⟩

/-- Settles O23: A and B are the two halves of `{a, b}`, and the exponent fields are read inside them. -/
theorem transactionWordFields : Obligations.TransactionWordFields := by
  intro a b
  have hA : (encode (.addflt a b)).fieldA = a := Pair64.fieldA_append a b
  have hB : (encode (.addflt a b)).fieldB = b := Pair64.fieldB_append a b
  refine ⟨toNat_encode_addflt a b, hA, hB, ?_, ?_⟩
  · rw [Pair64.fieldEA_eq, hA]
  · rw [Pair64.fieldEB_eq, hB]

/-- Settles O24: decoding reads the two fields, T's number stands for T itself, and executing the result is the
transaction on the fields, which has a y in every state. -/
theorem everyWordDecodesToAddflt : Obligations.EveryWordDecodesToAddflt := by
  intro T
  refine ⟨rfl, ?_, fun s => ⟨_, _, exec_decode T s, State.complete_y .., State.complete_readY ..⟩⟩
  rw [decodeTableWord_pair64, BitVec.ofNat_toNat, BitVec.setWidth_eq]

/-- Settles O27: decoding, the table's numbering and the placing on the ports all ask for 64 bits. -/
theorem otherWidthsRejected : Obligations.OtherWidthsRejected := fun _ w h =>
  ⟨decodeBits_of_ne h w, decodeTableWord_of_ne h w, fun s => State.withFetchWord_of_ne h s w⟩

end Machine

end Sys2Proof
end

section
/-! The datapath of ADDFLT (40_addflt.md R81 to R96): each unit in integer arithmetic, the gate-level units of the
shifter and the exponent multiplexer, and the result in closed form. -/

namespace Sys2Proof.Machine

/-! ## The exponent subtractor (R83 to R85) -/

theorem toInt_s8_bounds (e : S8) : -128 ≤ e.toInt ∧ e.toInt ≤ 127 := by
  have hle := e.le_toInt
  have hlt := e.toInt_lt
  omega

theorem toInt_signExtend_s8 (e : S8) : (e.signExtend 9).toInt = e.toInt :=
  BitVec.toInt_signExtend_of_le (by decide)

/-- Nine bits hold every difference of two s8 values, so the subtraction does not wrap. -/
theorem toInt_exponentDifference (ea eb : S8) : (exponentDifference ea eb).toInt = ea.toInt - eb.toInt := by
  have ha := toInt_s8_bounds ea
  have hb := toInt_s8_bounds eb
  rw [exponentDifference, BitVec.toInt_sub, toInt_signExtend_s8, toInt_signExtend_s8]
  exact Int.bmod_eq_of_le (by omega) (by omega)

theorem toInt_exponent_eq_byte (w : Word) : (exponent w).toInt = ((w >>> 24).toNat : Int) - 128 := by
  rw [toInt_exponent, toNat_exponentField]

/-- The bias cancels in the difference (R85). -/
theorem toInt_delta_eq_bytes (oor : OorShift) (a b : Word) :
    (evaluate oor a b).delta.toInt = ((a >>> 24).toNat : Int) - ((b >>> 24).toNat : Int) := by
  rw [evaluate_delta, toInt_exponentDifference, toInt_exponent_eq_byte, toInt_exponent_eq_byte]
  omega

/-! ## The SAT_BIDIR shifter by region of delta (R86, R87) -/

theorem evaluate_mb_of_inRange {oor : OorShift} {a b : Word} (h0 : 0 ≤ (evaluate oor a b).delta.toInt)
    (h31 : (evaluate oor a b).delta.toInt ≤ 31) :
    (evaluate oor a b).mb = b >>> (evaluate oor a b).delta.toInt.toNat := by
  rw [evaluate_mb, shifter_of_inRange ⟨h0, h31⟩]

theorem shifter_satBidir_of_left {mb0 : Word} {delta : S9} (h : -31 ≤ delta.toInt ∧ delta.toInt ≤ -1) :
    shifter satBidirOor mb0 delta = mb0 <<< (-delta.toInt).toNat := by
  rw [shifter_of_outOfRange (by omega), satBidirOor_of_left h]

theorem shifter_satBidir_of_saturated {mb0 : Word} {delta : S9} (h : 32 ≤ delta.toInt.natAbs) :
    shifter satBidirOor mb0 delta = 0#32 := by
  rw [shifter_of_outOfRange (by omega), satBidirOor_of_not_left (by omega)]

theorem toNat_shifter_satBidir (mb0 : Word) (delta : S9) :
    (shifter satBidirOor mb0 delta).toNat =
      if 0 ≤ delta.toInt ∧ delta.toInt ≤ 31 then mb0.toNat / 2 ^ delta.toInt.toNat
      else if -31 ≤ delta.toInt ∧ delta.toInt ≤ -1 then mb0.toNat * 2 ^ (-delta.toInt).toNat % 2 ^ 32
      else 0 := by
  split_ifs with hright hleft
  · rw [shifter_of_inRange hright, BitVec.toNat_ushiftRight, Nat.shiftRight_eq_div_pow]
  · rw [shifter_satBidir_of_left hleft, BitVec.toNat_shiftLeft, Nat.shiftLeft_eq]
  · rw [shifter_satBidir_of_saturated (by omega)]
    rfl

/-! ## The gate-level barrel shifter (R87) -/

/-- A shift by a number of places in a given direction: what a stage of the barrel shifter is part of. -/
def shiftWord (left : Bool) (n : Nat) (x : Word) : Word := if left then x <<< n else x >>> n

theorem shiftWord_shiftWord (left : Bool) (m n : Nat) (x : Word) :
    shiftWord left n (shiftWord left m x) = shiftWord left (m + n) x := by
  cases left with
  | true => exact (BitVec.shiftLeft_add x m n).symm
  | false => exact (BitVec.shiftRight_add x m n).symm

/-- A stage that is switched off shifts by no places. -/
theorem gateStage_eq (left on : Bool) (n : Nat) (x : Word) :
    gateStage left on n x = shiftWord left (on.toNat * n) x := by
  cases on with
  | true => simp [gateStage, shiftWord]
  | false => cases left <;> simp [gateStage, shiftWord]

theorem toNat_eq_sum_of_bits (d : BitVec 5) :
    (d.getLsbD 0).toNat * 1 + (d.getLsbD 1).toNat * 2 + (d.getLsbD 2).toNat * 4 + (d.getLsbD 3).toNat * 8 +
      (d.getLsbD 4).toNat * 16 = d.toNat := by
  revert d
  decide

/-- The distances of the five stages add up to the number that the distance bits write. -/
theorem gateBarrel_eq (left : Bool) (d : BitVec 5) (x : Word) : gateBarrel left d x = shiftWord left d.toNat x := by
  simp only [gateBarrel, gateStage_eq, shiftWord_shiftWord, toNat_eq_sum_of_bits]

theorem gateDirection_eq (delta : S9) : gateDirection delta = decide (delta.toInt < 0) :=
  delta.msb_eq_getLsbD_last.symm.trans BitVec.msb_eq_toInt

theorem gateMagnitude_eq_abs (delta : S9) : gateMagnitude delta = delta.abs := by
  rw [gateMagnitude, gateDirection_eq, ← BitVec.msb_eq_toInt]
  rfl

/-- Read without a sign, the nine bits hold even |−256|. -/
theorem toNat_gateMagnitude (delta : S9) : (gateMagnitude delta).toNat = delta.toInt.natAbs := by
  have hlt := delta.isLt
  rw [gateMagnitude_eq_abs, BitVec.toNat_abs, BitVec.toInt_eq_msb_cond]
  split <;> omega

/-- Bits 5 to 8 of a nine-bit number are all clear exactly when it is below 32. -/
theorem gateSaturates_iff (delta : S9) : gateSaturates delta = true ↔ 32 ≤ delta.toInt.natAbs := by
  have hlt := (gateMagnitude delta).isLt
  rw [gateSaturates, bne_iff_ne, ne_eq, ← BitVec.toNat_inj, BitVec.extractLsb'_toNat,
    Nat.shiftRight_eq_div_pow, toNat_gateMagnitude, BitVec.toNat_ofNat]
  rw [toNat_gateMagnitude] at hlt
  omega

theorem gateShifter_of_saturated {mb0 : Word} {delta : S9} (h : 32 ≤ delta.toInt.natAbs) :
    gateShifter mb0 delta = 0#32 :=
  if_pos ((gateSaturates_iff delta).2 h)

/-- Below saturation the low five bits of |delta| are the whole of it. -/
theorem gateShifter_of_not_saturated {mb0 : Word} {delta : S9} (h : delta.toInt.natAbs < 32) :
    gateShifter mb0 delta = shiftWord (decide (delta.toInt < 0)) delta.toInt.natAbs mb0 := by
  have hdistance : ((gateMagnitude delta).extractLsb' 0 5).toNat = delta.toInt.natAbs := by
    rw [BitVec.extractLsb'_toNat, toNat_gateMagnitude, Nat.shiftRight_zero, Nat.mod_eq_of_lt h]
  rw [gateShifter, if_neg (by rw [gateSaturates_iff]; omega), gateBarrel_eq, gateDirection_eq, hdistance]

/-- The two shifters agree in each of the three regions: right, left and saturated. -/
theorem shifter_satBidir_eq_gateShifter (mb0 : Word) (delta : S9) :
    shifter satBidirOor mb0 delta = gateShifter mb0 delta := by
  rcases Nat.lt_or_ge delta.toInt.natAbs 32 with hsmall | hsat
  · rw [gateShifter_of_not_saturated hsmall]
    rcases Int.lt_or_le delta.toInt 0 with hneg | hnonneg
    · have hplaces : (-delta.toInt).toNat = delta.toInt.natAbs := by omega
      rw [shifter_satBidir_of_left (by omega), hplaces]
      simp [shiftWord, hneg]
    · have hplaces : delta.toInt.toNat = delta.toInt.natAbs := by omega
      rw [shifter_of_inRange (by omega), hplaces]
      simp [shiftWord, Int.not_lt.2 hnonneg]
  · rw [shifter_satBidir_of_saturated hsat, gateShifter_of_saturated hsat]

/-! ## The adder and the zero detector (R90, R91) -/

theorem toNat_adder (ma mb : Word) : (adder ma mb).toNat = (ma.toNat + mb.toNat) % 2 ^ 32 :=
  BitVec.toNat_add ma mb

theorem evaluate_nz_iff (oor : OorShift) (a b : Word) :
    (evaluate oor a b).nz = true ↔ (evaluate oor a b).sum ≠ 0#32 := by
  rw [evaluate_nz, zeroDetector_eq_true_iff]

/-- A word is not zero exactly when the OR of its bits is set. -/
theorem ne_zero_iff_exists_getLsbD (w : Word) : w ≠ 0#32 ↔ ∃ k : Nat, k < 32 ∧ w.getLsbD k = true := by
  rw [ne_eq, BitVec.eq_of_getLsbD_eq_iff]
  simp

/-! ## The exponent multiplexer and the output sign-extender (R92, R93) -/

/-- Nine bits hold 127 + 1, so the increment does not wrap. -/
theorem toInt_exponentMux (ea : S8) (nz : Bool) :
    (exponentMux ea nz).toInt = if nz = true then ea.toInt + 1 else ea.toInt := by
  have hrange := toInt_s8_bounds ea
  cases nz with
  | false => exact toInt_signExtend_s8 ea
  | true =>
    have hone : (1#9).toInt = 1 := rfl
    rw [exponentMux, if_pos rfl, BitVec.toInt_add, toInt_signExtend_s8, hone, if_pos rfl]
    exact Int.bmod_eq_of_le (by omega) (by omega)

theorem cons_msb_eq_signExtend (e : S8) : BitVec.cons e.msb e = e.signExtend 9 := by
  ext k hk
  rw [BitVec.getElem_cons, BitVec.getElem_signExtend]
  by_cases htop : k = 8
  · simp [htop]
  · have hlow : k < 8 := by omega
    simp [htop, hlow]

theorem gateExponentMux_eq (ea : S8) (nz : Bool) : gateExponentMux ea nz = exponentMux ea nz := by
  cases nz <;> simp [gateExponentMux, exponentMux, cons_msb_eq_signExtend]

theorem outputExtender_eq_ofInt (e : S9) : outputExtender e = BitVec.ofInt 32 e.toInt := rfl

/-- The output read as an unsigned number (R93). -/
theorem toNat_outputExtender (e : S9) : ((outputExtender e).toNat : Int) = e.toInt % 2 ^ 32 := by
  rw [outputExtender_eq_ofInt, BitVec.toNat_ofInt]
  exact Int.toNat_of_nonneg (Int.emod_nonneg _ (by decide))

/-- ADDFLT in closed form, under every policy: the exponent of a, plus one unless the sum is zero (R94). -/
theorem addfltWith_eq_ofInt (oor : OorShift) (a b : Word) :
    addfltWith oor a b =
      BitVec.ofInt 32 ((exponent a).toInt + if a + (evaluate oor a b).mb ≠ 0#32 then 1 else 0) := by
  have hnz : (evaluate oor a b).nz = true ↔ a + (evaluate oor a b).mb ≠ 0#32 := by
    rw [evaluate_nz_iff, evaluate_sum, adder]
  rw [addfltWith_eq, evaluate_y, outputExtender_eq_ofInt, evaluate_eAdj, toInt_exponentMux]
  simp only [hnz, add_ite, add_zero]

/-! ## The obligations -/

/-- Settles O4: the subtraction is exact, its range is that of two s8 values, and the extreme bytes reach it. -/
theorem deltaIsExactDifference : Obligations.DeltaIsExactDifference := by
  refine ⟨fun oor a b => ?_, fun oor => ⟨?_, ?_⟩⟩
  · have ha := toInt_s8_bounds (exponent a)
    have hb := toInt_s8_bounds (exponent b)
    rw [evaluate_delta, evaluate_ea, evaluate_eb, toInt_exponentDifference]
    omega
  · rw [toInt_delta_eq_bytes]
    decide
  · rw [toInt_delta_eq_bytes]
    decide

/-- Settles O6: in range the shifter is the logical right shift, which divides by a power of two. -/
theorem inRangeShiftIsLogicalRight : Obligations.InRangeShiftIsLogicalRight := by
  intro oor a b h0 h31
  have hmb := evaluate_mb_of_inRange h0 h31
  refine ⟨hmb, ?_, fun hzero => ?_⟩
  · rw [hmb, BitVec.toNat_ushiftRight, Nat.shiftRight_eq_div_pow]
  · rw [hmb, hzero]
    exact BitVec.ushiftRight_zero b

/-- Settles O7: the regions of SAT_BIDIR, and the barrel shifter in each of them. The bound on delta is not needed:
−256 saturates too. -/
theorem satBidirShiftRegions : Obligations.SatBidirShiftRegions :=
  ⟨rfl, fun mb0 delta _ => ⟨toNat_shifter_satBidir mb0 delta, shifter_satBidir_eq_gateShifter mb0 delta⟩⟩

/-- Settles O9: the adder wraps, and a sum is not zero exactly when one of its bits is set. -/
theorem sumWrapsAndZeroIsDetected : Obligations.SumWrapsAndZeroIsDetected := by
  intro oor a b
  have hnz := evaluate_nz_iff oor a b
  refine ⟨?_, hnz, hnz.trans (ne_zero_iff_exists_getLsbD _)⟩
  rw [evaluate_sum, toNat_adder]

/-- Settles O10: the increment is exact, so e_adj has the range of ea widened by one, and y is its pattern. -/
theorem exponentIsAdjustedAndExtended : Obligations.ExponentIsAdjustedAndExtended := by
  intro oor a b
  have hrange := toInt_s8_bounds (exponent a)
  have hadj := toInt_exponentMux (exponent a) (evaluate oor a b).nz
  rw [evaluate_y, evaluate_ea, evaluate_eAdj]
  refine ⟨hadj, ?_, ?_, (gateExponentMux_eq _ _).symm, rfl, toNat_outputExtender _⟩
  · split at hadj <;> omega
  · split at hadj <;> omega

/-- Settles O13: the closed form of ADDFLT, with delta and ea read from the bytes and the shift in range. -/
theorem primaryFunctionalLaw : Obligations.PrimaryFunctionalLaw := by
  intro a b s delta h0 h31
  have hdelta : (evaluate satBidirOor a b).delta.toInt = delta := toInt_delta_eq_bytes satBidirOor a b
  have hmb : (evaluate satBidirOor a b).mb = b >>> delta.toNat := by
    rw [evaluate_mb_of_inRange (by omega) (by omega), hdelta]
  refine ⟨_, exec_addflt a b s, ?_⟩
  rw [State.complete_y, addflt_eq, addfltWith_eq_ofInt, hmb, toInt_exponent_eq_byte]

/-- Settles O14: in every state the output port and the read answer `addflt` of the pair. -/
theorem totalAndDeterministic : Obligations.TotalAndDeterministic := fun a b s s' =>
  ⟨_, _, addflt a b, exec_addflt a b s, exec_addflt a b s', State.complete_y .., State.complete_y ..,
    State.complete_readY .., State.complete_readY ..⟩

end Sys2Proof.Machine
end

section
/-! The one fault (60_exceptions.md R134): what a read of y answers, and the transaction step that never stops. -/

namespace Sys2Proof.Machine

/-! ## Reading y -/

/-- An answer is a fault exactly where there is no word, whichever fault is asked about: the model has one. -/
theorem answerY_eq_fault_iff {o : Option Word} {r : Fault} : answerY o = .fault r ↔ o = none := by
  cases o with
  | none => cases r; simp [answerY]
  | some y => simp [answerY]

theorem answerY_ne_refused (o : Option Word) (r : Refusal) : answerY o ≠ .refused r := by
  cases o <;> simp [answerY]

theorem State.readY_eq_fault_iff {s : State} {r : Fault} : s.readY = .fault r ↔ s.last = none := by
  rw [State.readY, answerY_eq_fault_iff, Option.map_eq_none_iff]

theorem State.readY_ne_refused (s : State) (r : Refusal) : s.readY ≠ .refused r :=
  answerY_ne_refused _ r

/-! ## The transaction step -/

/-- A step on driven ports, with no script and no change in progress, is the transaction on their pair. -/
theorem step_of_ports {s : State} {a b : Word} (hs : s.script = []) (ha : s.a = some a) (hb : s.b = some b)
    (hc : s.changing = false) : step s = .next (s.complete a b (addflt a b)) := by
  rw [step_of_no_script hs, State.transact_of_ports hc ha hb]

/-! ## The obligation -/

/-- Settles O12: exec and the step both complete the pair, and y has no value only where no pair was completed. -/
theorem transactionAlwaysCompletes : Obligations.TransactionAlwaysCompletes := by
  refine ⟨fun a b s => ?_, fun a b s hs ha hb hc => ?_, fun s => ?_, fun r => ?_⟩
  · exact ⟨_, exec_addflt a b s, State.complete_y .., State.complete_readY ..⟩
  · exact ⟨_, step_of_ports hs ha hb hc, State.complete_y .., State.complete_readY ..⟩
  · exact ⟨State.readY_eq_fault_iff, s.readY_ne_refused⟩
  · cases r with
    | noTransaction => rfl

end Sys2Proof.Machine
end

section
/-! The output follows the inputs (70_reset_and_hazards.md R141): when y and the record of the last pair are
empty, read off the ports. -/

namespace Sys2Proof.Machine

/-! ## Undriven ports -/

theorem portPair_eq_none_iff {a b : Option Word} : portPair a b = none ↔ a = none ∨ b = none := by
  simp only [← Option.not_isSome_iff_eq_none, portPair_isSome, Bool.and_eq_true, not_and_or]

theorem portOutput_eq_none_iff {a b : Option Word} : portOutput a b = none ↔ a = none ∨ b = none := by
  rw [portOutput, Option.map_eq_none_iff, portPair_eq_none_iff]

/-! ## What the invariant says of y and of the last pair -/

theorem State.y_eq_portOutput {s : State} (hi : s.invariant = true) : s.y = portOutput s.a s.b := by
  obtain ⟨-, -, hport, -⟩ := State.invariant_iff.1 hi
  exact State.portSound_iff.1 hport

theorem State.last_isSome_eq_pair_isSome {s : State} (hi : s.invariant = true) :
    s.last.isSome = s.pair.isSome := by
  obtain ⟨-, hrecord, -, -⟩ := State.invariant_iff.1 hi
  exact (State.recordSound_iff.1 hrecord).1

theorem State.y_eq_none_iff {s : State} (hi : s.invariant = true) : s.y = none ↔ s.a = none ∨ s.b = none := by
  rw [State.y_eq_portOutput hi, portOutput_eq_none_iff]

/-- No transaction has been applied exactly while an input carries no value. -/
theorem State.last_eq_none_iff {s : State} (hi : s.invariant = true) :
    s.last = none ↔ s.a = none ∨ s.b = none := by
  rw [Option.isSome_eq_isSome.1 (State.last_isSome_eq_pair_isSome hi), State.pair, portPair_eq_none_iff]

theorem State.y_of_ports {s : State} {a b : Word} (hi : s.invariant = true) (ha : s.a = some a)
    (hb : s.b = some b) : s.y = some (addflt a b) := by
  rw [State.y_eq_portOutput hi, ha, hb, portOutput_some]

/-! ## The obligation -/

/-- Settles O40: under the invariant y is the output of the ports and a pair is recorded exactly when both are
driven; reset drives neither. -/
theorem outputFollowsInputs : Obligations.OutputFollowsInputs := by
  refine ⟨fun s hi => ⟨State.y_eq_none_iff hi, State.last_eq_none_iff hi, State.readY_eq_fault_iff, ?_⟩, rfl, rfl⟩
  intro a b ha hb
  exact State.y_of_ports hi ha hb

end Sys2Proof.Machine
end

section
/-! Decode and encode (30_encoding.md R67, R68): the two fields make up the whole transaction word; and the
exponent as an inversion of bit 31 (R63). -/

namespace Sys2Proof

/-! ## The transaction word -/

/-- The fields A and B are adjacent and together the whole of T. -/
theorem Pair64.fieldA_append_fieldB (T : Pair64) : T.fieldA ++ T.fieldB = T := by
  have hadjacent := BitVec.extractLsb'_append_extractLsb'_eq_extractLsb' (x := T) (start₁ := 0) (len₁ := 32)
    (start₂ := 32) (len₂ := 32) rfl
  exact hadjacent.trans BitVec.extractLsb'_eq_self

theorem decode_encode (i : Instr) : decode (encode i) = i := by
  cases i with
  | addflt a b => simp [encode, decode]

theorem encode_decode (T : Pair64) : encode (decode T) = T :=
  T.fieldA_append_fieldB

namespace Machine

/-! ## The exponent without a subtractor -/

theorem exponentField_eq_cons (w : Word) : exponentField w = BitVec.cons (w.getLsbD 31) (w.extractLsb' 24 7) := by
  ext k hk
  rw [BitVec.getElem_cons]
  by_cases htop : k = 7
  · simp [exponentField, Config.expLo, htop]
  · simp [exponentField, Config.expLo, htop]

/-- Subtracting the bias from a byte inverts its top bit: 128 is the weight of that bit, and the borrow is lost. -/
theorem byte_sub_bias_eq_xor (e : BitVec 8) : (e.setWidth 9 - Config.bias).setWidth 8 = e ^^^ 0x80#8 := by
  revert e
  decide

theorem exponent_eq_xor (w : Word) : exponent w = exponentField w ^^^ 0x80#8 :=
  byte_sub_bias_eq_xor (exponentField w)

theorem exponent_eq_cons (w : Word) : exponent w = BitVec.cons (!w.getLsbD 31) (w.extractLsb' 24 7) := by
  have hbit : 0x80#8 = BitVec.cons true 0#7 := rfl
  rw [exponent_eq_xor, exponentField_eq_cons, hbit, BitVec.cons_xor_cons, Bool.xor_true, BitVec.xor_zero]

/-! ## The obligations -/

/-- Settles O25: reading the fields of `{a, b}` gives a and b back, and the two fields make up the word. -/
theorem decodeEncodeInverse : Obligations.DecodeEncodeInverse :=
  ⟨fun i _ => decode_encode i, encode_decode⟩

/-- Settles O2: the bias subtraction on a byte, bit by bit. -/
theorem exponentInvertsBit31 : Obligations.ExponentInvertsBit31 := fun w =>
  ⟨exponent_eq_cons w, exponent_eq_xor w⟩

/-- Settles O26: the words of 95_test_vectors.md section 4, evaluated. -/
theorem writtenWordsDecode : Obligations.WrittenWordsDecode := by
  unfold Obligations.WrittenWordsDecode
  decide

end Machine

end Sys2Proof
end

section
/-! The invariant (10_state.md R31, R32; 70_reset_and_hazards.md R141, R144, R145): a completed pair on the ports
meets it, so every step and every action of the environment keeps it; and what a sample of y answers under it. -/

namespace Sys2Proof.Machine

/-! ## The shape of a result (R65, R66) -/

theorem toInt_outputExtender (e : S9) : (outputExtender e).toInt = e.toInt :=
  BitVec.toInt_signExtend_of_le (by decide)

/-- e_adj is ea or ea + 1. -/
theorem toInt_eAdj_bounds (oor : OorShift) (a b : Word) :
    -128 ≤ (evaluate oor a b).eAdj.toInt ∧ (evaluate oor a b).eAdj.toInt ≤ 128 := by
  have hrange := toInt_s8_bounds (exponent a)
  rw [evaluate_eAdj, toInt_exponentMux]
  split <;> omega

theorem toNat_addfltWith_shape (oor : OorShift) (a b : Word) :
    (addfltWith oor a b).toNat ≤ 0x80 ∨ 0xFFFFFF80 ≤ (addfltWith oor a b).toNat := by
  have hrange := toInt_eAdj_bounds oor a b
  have hy := toNat_outputExtender (evaluate oor a b).eAdj
  rw [addfltWith_eq, evaluate_y]
  omega

theorem exponentShaped_iff {y : Word} : exponentShaped y = true ↔ y.toNat ≤ 0x80 ∨ 0xFFFFFF80 ≤ y.toNat := by
  simp [exponentShaped]

theorem exponentShaped_addflt (a b : Word) : exponentShaped (addflt a b) = true :=
  exponentShaped_iff.2 (toNat_addfltWith_shape satBidirOor a b)

/-! ## States that meet the invariant -/

/-- A state whose ports carry the most recent pair and its y meets the invariant, whichever port was moved. -/
theorem State.invariant_of_completed {s : State} {a b : Word} (ha : s.a = some a) (hb : s.b = some b)
    (hy : s.y = some (addflt a b)) (hl : s.last = some (a, b)) (hr : s.resultsShaped = true) :
    s.invariant = true := by
  have hpair : s.pair = some (a, b) := by simp [State.pair, ha, hb]
  refine State.invariant_iff.2 ⟨hr, ?_, ?_, ?_⟩
  · simp [State.recordSound_iff, hl, hpair]
  · simp [State.portSound_iff, hy, ha, hb]
  · unfold State.movedSound
    split <;> simp [ha, hb, hl, hpair]

theorem State.complete_invariant {s : State} (a b : Word) (hi : s.invariant = true) :
    (s.complete a b (addflt a b)).invariant = true := by
  obtain ⟨hresults, -⟩ := State.invariant_iff.1 hi
  exact State.invariant_of_completed rfl rfl rfl rfl hresults

theorem State.present_invariant {s : State} (a b : Word) (hi : s.invariant = true) :
    (s.present a b).invariant = true := by
  obtain ⟨hresults, -⟩ := State.invariant_iff.1 hi
  exact State.invariant_of_completed rfl rfl rfl rfl hresults

/-- The script is no part of the invariant. -/
@[simp] theorem State.setScript_invariant (s : State) (script : List ScriptLine) :
    (s.setScript script).invariant = s.invariant := rfl

theorem State.afterLine_resultsShaped (s : State) (l : ScriptLine) (rest : List ScriptLine) (a b : Word) :
    (s.afterLine l rest a b).resultsShaped = s.resultsShaped := by
  simp [State.resultsShaped, State.afterLine, exponentShaped_addflt]

theorem State.afterLine_invariant {s : State} (l : ScriptLine) (rest : List ScriptLine) (a b : Word)
    (hi : s.invariant = true) : (s.afterLine l rest a b).invariant = true := by
  obtain ⟨hresults, -⟩ := State.invariant_iff.1 hi
  exact State.invariant_of_completed rfl rfl rfl rfl (by rw [State.afterLine_resultsShaped, hresults])

/-! ## A port driven alone -/

/-- Unless `b` alone was moved, a pair is recorded exactly when `b` carries a value. -/
theorem State.last_isSome_eq_b {s : State} (hi : s.invariant = true) (h : s.moved ≠ some .b ∨ s.b = none) :
    s.last.isSome = s.b.isSome := by
  have hpair := State.last_isSome_eq_pair_isSome hi
  obtain ⟨-, -, -, hmoved⟩ := State.invariant_iff.1 hi
  match hm : s.moved with
  | none => exact (State.last_isSome_of_moved_none hi hm).2
  | some .a =>
    have ha : s.a.isSome = true := by simpa [State.movedSound, hm] using hmoved
    simpa [State.pair, ha] using hpair
  | some .b =>
    have hb : s.b.isSome = true := by simpa [State.movedSound, hm] using hmoved
    simp [hm] at h
    simp [h] at hb

/-- Unless `a` alone was moved, a pair is recorded exactly when `a` carries a value. -/
theorem State.last_isSome_eq_a {s : State} (hi : s.invariant = true) (h : s.moved ≠ some .a ∨ s.a = none) :
    s.last.isSome = s.a.isSome := by
  have hpair := State.last_isSome_eq_pair_isSome hi
  obtain ⟨-, -, -, hmoved⟩ := State.invariant_iff.1 hi
  match hm : s.moved with
  | none => exact (State.last_isSome_of_moved_none hi hm).1
  | some .b =>
    have hb : s.b.isSome = true := by simpa [State.movedSound, hm] using hmoved
    simpa [State.pair, hb] using hpair
  | some .a =>
    have ha : s.a.isSome = true := by simpa [State.movedSound, hm] using hmoved
    simp [hm] at h
    simp [h] at ha

/-- Driving `a` begins a change, or goes on with one, unless it completes the pair. -/
theorem State.driveA_cases (s : State) (w : Word) :
    (∃ v, s.b = some v ∧ s.driveA w = s.present w v) ∨
    ((s.moved ≠ some .b ∨ s.b = none) ∧
      s.driveA w = { s with a := some w, y := portOutput (some w) s.b, moved := some .a }) := by
  by_cases h : s.moved ≠ some .b ∨ s.b = none
  · exact .inr ⟨h, State.driveA_of_not_moved w h⟩
  · push Not at h
    obtain ⟨hm, hb⟩ := h
    obtain ⟨v, hv⟩ := Option.ne_none_iff_exists'.1 hb
    exact .inl ⟨v, hv, State.driveA_of_moved w hm hv⟩

/-- Driving `b` begins a change, or goes on with one, unless it completes the pair. -/
theorem State.driveB_cases (s : State) (w : Word) :
    (∃ v, s.a = some v ∧ s.driveB w = s.present v w) ∨
    ((s.moved ≠ some .a ∨ s.a = none) ∧
      s.driveB w = { s with b := some w, y := portOutput s.a (some w), moved := some .b }) := by
  by_cases h : s.moved ≠ some .a ∨ s.a = none
  · exact .inr ⟨h, State.driveB_of_not_moved w h⟩
  · push Not at h
    obtain ⟨hm, ha⟩ := h
    obtain ⟨v, hv⟩ := Option.ne_none_iff_exists'.1 ha
    exact .inl ⟨v, hv, State.driveB_of_moved w hm hv⟩

@[simp] theorem State.driveA_a (s : State) (w : Word) : (s.driveA w).a = some w := by
  obtain ⟨v, -, h⟩ | ⟨-, h⟩ := s.driveA_cases w <;> simp [h]

@[simp] theorem State.driveA_b (s : State) (w : Word) : (s.driveA w).b = s.b := by
  obtain ⟨v, hv, h⟩ | ⟨-, h⟩ := s.driveA_cases w
  · simp [h, hv]
  · simp [h]

/-- The output follows a drive of `a` at once (R144). -/
@[simp] theorem State.driveA_y (s : State) (w : Word) : (s.driveA w).y = portOutput (some w) s.b := by
  obtain ⟨v, hv, h⟩ | ⟨-, h⟩ := s.driveA_cases w
  · simp [h, hv]
  · simp [h]

/-- The drive that begins a change leaves the completed pair. -/
theorem State.driveA_last {s : State} (w : Word) (hm : s.moved = none) : (s.driveA w).last = s.last := by
  rw [State.driveA_of_not_moved w (.inl (by simp [hm]))]

@[simp] theorem State.driveB_b (s : State) (w : Word) : (s.driveB w).b = some w := by
  obtain ⟨v, -, h⟩ | ⟨-, h⟩ := s.driveB_cases w <;> simp [h]

@[simp] theorem State.driveB_a (s : State) (w : Word) : (s.driveB w).a = s.a := by
  obtain ⟨v, hv, h⟩ | ⟨-, h⟩ := s.driveB_cases w
  · simp [h, hv]
  · simp [h]

/-- The output follows a drive of `b` at once (R144). -/
@[simp] theorem State.driveB_y (s : State) (w : Word) : (s.driveB w).y = portOutput s.a (some w) := by
  obtain ⟨v, hv, h⟩ | ⟨-, h⟩ := s.driveB_cases w
  · simp [h, hv]
  · simp [h]

/-- The drive that begins a change leaves the completed pair. -/
theorem State.driveB_last {s : State} (w : Word) (hm : s.moved = none) : (s.driveB w).last = s.last := by
  rw [State.driveB_of_not_moved w (.inl (by simp [hm]))]

theorem State.driveA_invariant {s : State} (w : Word) (hi : s.invariant = true) :
    (s.driveA w).invariant = true := by
  obtain ⟨hresults, hrecord, -, -⟩ := State.invariant_iff.1 hi
  obtain ⟨-, hkept⟩ := State.recordSound_iff.1 hrecord
  obtain ⟨v, -, hpresent⟩ | ⟨hmoved, hdrive⟩ := s.driveA_cases w
  · rw [hpresent]
    exact State.present_invariant w v hi
  · rw [hdrive]
    refine State.invariant_iff.2 ⟨hresults, State.recordSound_iff.2 ⟨?_, hkept⟩, State.portSound_iff.2 rfl, rfl⟩
    simp [State.pair, State.last_isSome_eq_b hi hmoved]

theorem State.driveB_invariant {s : State} (w : Word) (hi : s.invariant = true) :
    (s.driveB w).invariant = true := by
  obtain ⟨hresults, hrecord, -, -⟩ := State.invariant_iff.1 hi
  obtain ⟨-, hkept⟩ := State.recordSound_iff.1 hrecord
  obtain ⟨v, -, hpresent⟩ | ⟨hmoved, hdrive⟩ := s.driveB_cases w
  · rw [hpresent]
    exact State.present_invariant v w hi
  · rw [hdrive]
    refine State.invariant_iff.2 ⟨hresults, State.recordSound_iff.2 ⟨?_, hkept⟩, State.portSound_iff.2 rfl, rfl⟩
    simp [State.pair, State.last_isSome_eq_a hi hmoved]

/-! ## Sampling the port y (R145, U6) -/

theorem State.changing_iff_of_ports {s : State} {a b : Word} {p : Word × Word} (ha : s.a = some a)
    (hb : s.b = some b) (hl : s.last = some p) : s.changing = true ↔ p ≠ (a, b) := by
  simp [State.changing, State.pair, ha, hb, hl]

/-- With both ports driven, the sample is the output for the completed pair, and refused for any other. -/
theorem State.samplePort_of_ports {s : State} {a b : Word} {p : Word × Word} (ha : s.a = some a) (hb : s.b = some b)
    (hl : s.last = some p) (hy : s.y = some (addflt a b)) :
    s.samplePort = if p = (a, b) then .next (addflt a b) else .refused .operandsChanging := by
  simp only [State.samplePort, State.changing_iff_of_ports ha hb hl, hy, answerY, ne_eq, ite_not]

/-- Under the invariant a sample finds both ports driven and a pair completed, or a port undriven and none. -/
theorem State.samplePort_cases {s : State} (hi : s.invariant = true) :
    ((s.a = none ∨ s.b = none) ∧ s.last = none ∧ s.samplePort = .fault .noTransaction) ∨
    (∃ a b p, s.a = some a ∧ s.b = some b ∧ s.last = some p ∧
      s.samplePort = if p = (a, b) then .next (addflt a b) else .refused .operandsChanging) := by
  by_cases hports : s.a = none ∨ s.b = none
  · have hl := (State.last_eq_none_iff hi).2 hports
    have hy := (State.y_eq_none_iff hi).2 hports
    have hc : s.changing = false := State.not_changing (.inl hl)
    exact .inl ⟨hports, hl, by simp [State.samplePort, hc, hy, answerY]⟩
  · have hl : s.last ≠ none := mt (State.last_eq_none_iff hi).1 hports
    push Not at hports
    obtain ⟨a, ha⟩ := Option.ne_none_iff_exists'.1 hports.1
    obtain ⟨b, hb⟩ := Option.ne_none_iff_exists'.1 hports.2
    obtain ⟨p, hp⟩ := Option.ne_none_iff_exists'.1 hl
    exact .inr ⟨a, b, p, ha, hb, hp, State.samplePort_of_ports ha hb hp (State.y_of_ports hi ha hb)⟩

/-- Before a change is begun, the ports carry the most recent pair. -/
theorem State.last_eq_pair_of_moved_none {s : State} (hi : s.invariant = true) (hm : s.moved = none) :
    s.last = s.pair := by
  obtain ⟨-, -, -, hmoved⟩ := State.invariant_iff.1 hi
  exact ((State.movedSound_of_moved_none hm).1 hmoved).1

/-- Between the drives of a change begun with `a`, the sample answers for the completed pair if `a` is the old
word. -/
theorem State.samplePort_driveA {s : State} {x z : Word} (w : Word) (hi : s.invariant = true) (hm : s.moved = none)
    (hl : s.last = some (x, z)) :
    (s.driveA w).samplePort = if w = x then .next (addflt x z) else .refused .operandsChanging := by
  obtain ⟨-, hb⟩ := portPair_eq_some ((State.last_eq_pair_of_moved_none hi hm).symm.trans hl)
  rw [State.samplePort_of_ports (s.driveA_a w) ((s.driveA_b w).trans hb) ((State.driveA_last w hm).trans hl)
    (by simp [hb])]
  by_cases hw : w = x
  · simp [hw]
  · simp [hw, Ne.symm hw]

/-- Between the drives of a change begun with `b`, the sample answers for the completed pair if `b` is the old
word. -/
theorem State.samplePort_driveB {s : State} {x z : Word} (w : Word) (hi : s.invariant = true) (hm : s.moved = none)
    (hl : s.last = some (x, z)) :
    (s.driveB w).samplePort = if w = z then .next (addflt x z) else .refused .operandsChanging := by
  obtain ⟨ha, -⟩ := portPair_eq_some ((State.last_eq_pair_of_moved_none hi hm).symm.trans hl)
  rw [State.samplePort_of_ports ((s.driveB_a w).trans ha) (s.driveB_b w) ((State.driveB_last w hm).trans hl)
    (by simp [ha])]
  by_cases hw : w = z
  · simp [hw]
  · simp [hw, Ne.symm hw]

/-! ## The obligations -/

/-- Settles O46: a step changes nothing, completes the ports' pair, passes a line over, or runs one to
`afterLine`. -/
theorem stepKeepsInvariant : Obligations.StepKeepsInvariant := by
  intro s t hi hstep
  obtain ⟨-, -, rfl⟩ | ⟨-, a, b, -, -, -, rfl⟩ | ⟨l, rest, -, -, rfl⟩ | ⟨l, rest, a, b, -, -, -, -, rfl⟩ :=
    step_cases hstep
  · exact hi
  · exact State.complete_invariant a b hi
  · rwa [State.setScript_invariant]
  · exact State.afterLine_invariant l rest a b hi

/-- Settles O47: presenting completes a pair; a drive does so too, or leaves a port marked as moved alone. -/
theorem environmentKeepsInvariant : Obligations.EnvironmentKeepsInvariant := fun _ a b hi =>
  ⟨State.driveA_invariant a hi, State.driveB_invariant b hi, State.present_invariant a b hi⟩

/-- Settles O45: with nothing driven, completed or kept, each part of the invariant is true. -/
theorem invariantAtReset : Obligations.InvariantAtReset :=
  rfl

/-- Settles O44: the fields of reset; both reads of y find none. -/
theorem resetHasNoResult : Obligations.ResetHasNoResult :=
  ⟨rfl, rfl, rfl, rfl, rfl, rfl, rfl, rfl, rfl⟩

/-- Settles O42: the first drive leaves the completed pair in `last`, and the second presents the new one. -/
theorem drivingBothPortsCompletesPair : Obligations.DrivingBothPortsCompletesPair := by
  intro s a b hi hm
  exact ⟨State.driveB_driveA a b hm, State.driveA_driveB a b hm, State.driveA_last a hm, State.driveB_last b hm,
    fun x z hl => ⟨State.samplePort_driveA a hi hm hl, State.samplePort_driveB b hi hm hl⟩⟩

/-- Settles O43: the two cases of a sample under the invariant; a pair other than the completed one on the ports
means that a port was moved alone. -/
theorem portSampleOnlyCompletedPair : Obligations.PortSampleOnlyCompletedPair := by
  intro s hi
  obtain ⟨hports, hl, hsample⟩ | ⟨a, b, p, ha, hb, hl, hsample⟩ := State.samplePort_cases hi
  · simp [hsample, hl, hports]
  · rw [hsample]
    by_cases hp : p = (a, b)
    · simp [hp, ha, hb, hl, eq_comm]
    · refine ⟨?_, ?_, ?_, fun _ hm => hp ?_⟩
      · simp [hp, ha, hb, hl]
      · simp [hp, ha, hb]
      · simp [hp, ha, hb, hl]
      · have hpair := State.last_eq_pair_of_moved_none hi hm
        simpa [State.pair, ha, hb, hl] using hpair

/-- Settles O41: presenting completes the pair at once, and a drive writes the output for what the ports carry. -/
theorem outputIsCombinational : Obligations.OutputIsCombinational := by
  refine ⟨fun s a b => ⟨rfl, rfl, ?_, rfl⟩, fun s a b hb => ?_, fun s a b ha => ?_⟩
  · rw [State.samplePort_of_ports (s := s.present a b) rfl rfl rfl rfl, if_pos rfl]
  · rw [State.driveA_y, hb, portOutput_some]
  · rw [State.driveB_y, ha, portOutput_some]

end Sys2Proof.Machine
end

section
/-! The host's scripts (30_encoding.md R73): which operands the host has, when a script is ready, and what a
step with and without a script does. -/

namespace Sys2Proof.Machine

/-! ## Operands -/

/-- A named result that the host has kept. -/
theorem State.operandWord_result_of_mem {s : State} {k : Nat} (h : k ∈ s.results.map Prod.fst) :
    ∃ w, s.operandWord (.result k) = .next w := by
  obtain ⟨r, hr, rfl⟩ := List.mem_map.1 h
  obtain ⟨r', hr'⟩ := Option.isSome_iff_exists.1
    (List.find?_isSome.2 ⟨r, hr, beq_self_eq_true r.1⟩ : (s.results.find? fun q => q.1 == r.1).isSome = true)
  exact ⟨r'.2, by simp [State.operandWord, hr']⟩

theorem State.operandWord_result_of_not_mem {s : State} {k : Nat} (h : k ∉ s.results.map Prod.fst) :
    s.operandWord (.result k) = .refused (.notEarlierResult k) := by
  have hnone : s.results.find? (fun r => r.1 == k) = none := by
    refine List.find?_eq_none.2 fun r hr hk => h ?_
    exact List.mem_map.2 ⟨r, hr, by simpa using hk⟩
  simp [State.operandWord, hnone]

/-- The newest of several results kept under one number. -/
theorem State.operandWord_result_of_newest {s : State} {k : Nat} {y : Word} {newer older : List (Nat × Word)}
    (hs : s.results = newer ++ (k, y) :: older) (hk : k ∉ newer.map Prod.fst) :
    s.operandWord (.result k) = .next y := by
  have hnewer : newer.find? (fun r => r.1 == k) = none := by
    refine List.find?_eq_none.2 fun r hr hr' => hk ?_
    exact List.mem_map.2 ⟨r, hr, by simpa using hr'⟩
  simp [State.operandWord, hs, List.find?_append, hnewer]

theorem State.readY_of_last {s : State} {a b : Word} (h : s.last = some (a, b)) :
    s.readY = .next (addflt a b) := by
  simp [State.readY, h, answerY]

@[simp] theorem State.operandWord_lit (s : State) (w : Word) : s.operandWord (.lit w) = .next w := rfl

@[simp] theorem State.operandWord_previous (s : State) : s.operandWord .previous = s.readY := rfl

/-- `available` says exactly when the host has a word for an operand. -/
theorem State.available_iff {s : State} {o : ScriptOperand} :
    o.available (s.results.map Prod.fst) s.last.isSome = true ↔ ∃ w, s.operandWord o = .next w := by
  cases o with
  | lit v => simp [ScriptOperand.available]
  | result k =>
    rw [ScriptOperand.available, List.contains_iff_mem]
    refine ⟨State.operandWord_result_of_mem, fun ⟨w, hw⟩ => ?_⟩
    by_contra hk
    simp [State.operandWord_result_of_not_mem hk] at hw
  | previous =>
    rw [ScriptOperand.available, State.operandWord_previous]
    refine ⟨fun h => ?_, fun ⟨w, hw⟩ => ?_⟩
    · obtain ⟨p, hp⟩ := Option.isSome_iff_exists.1 h
      exact ⟨_, State.readY_of_last hp⟩
    · obtain ⟨a, b, hl, -⟩ := State.readY_eq_next hw
      simp [hl]

/-- What the host has it still has with more results and a transaction completed. -/
theorem ScriptOperand.available_mono {o : ScriptOperand} {labels labels' : List Nat} {started : Bool}
    (hsub : labels ⊆ labels') (h : o.available labels started = true) : o.available labels' true = true := by
  cases o with
  | lit v => rfl
  | result k => exact List.contains_iff_mem.2 (hsub (List.contains_iff_mem.1 h))
  | previous => rfl

@[simp] theorem State.afterLine_readY (s : State) (l : ScriptLine) (rest : List ScriptLine) (a b : Word) :
    (s.afterLine l rest a b).readY = .next (addflt a b) := rfl
@[simp] theorem State.afterLine_script (s : State) (l : ScriptLine) (rest : List ScriptLine) (a b : Word) :
    (s.afterLine l rest a b).script = scriptAfter l rest := rfl
@[simp] theorem State.afterLine_results (s : State) (l : ScriptLine) (rest : List ScriptLine) (a b : Word) :
    (s.afterLine l rest a b).results = (l.label, addflt a b) :: s.results := rfl

/-- An operand that the host has for a line it has for the next repetition too. -/
theorem State.exists_operandWord_afterLine {s : State} {o : ScriptOperand} {w : Word}
    (h : s.operandWord o = .next w) (l : ScriptLine) (rest : List ScriptLine) (a b : Word) :
    ∃ w', (s.afterLine l rest a b).operandWord o = .next w' :=
  State.available_iff.1 (ScriptOperand.available_mono (List.subset_cons_self _ _) (State.available_iff.2 ⟨w, h⟩))

/-! ## The lines that remain -/

/-- The script that stands with `k` repetitions of a line still to be run. -/
def remainingScript (l : ScriptLine) (rest : List ScriptLine) : Nat → List ScriptLine
  | 0 => rest
  | k + 1 => { l with times := k + 1 } :: rest

theorem scriptAfter_eq_remaining {l : ScriptLine} {k : Nat} (h : l.times = k + 1) (rest : List ScriptLine) :
    scriptAfter l rest = remainingScript l rest k := by
  cases k with
  | zero => simp [scriptAfter, h, remainingScript]
  | succ k => simp [scriptAfter, h, remainingScript]

theorem cons_eq_remaining {l : ScriptLine} {k : Nat} (h : l.times = k + 1) (rest : List ScriptLine) :
    l :: rest = remainingScript l rest (k + 1) := by
  simp [remainingScript, ← h]

/-! ## Ready scripts -/

theorem operandsEarlier_cons_of_times_zero {l : ScriptLine} (hn : l.times = 0) (labels : List Nat) (started : Bool)
    (rest : List ScriptLine) : operandsEarlier labels started (l :: rest) = operandsEarlier labels started rest :=
  if_pos hn

theorem operandsEarlier_cons_iff {l : ScriptLine} {rest : List ScriptLine} {labels : List Nat} {started : Bool}
    (hn : l.times ≠ 0) :
    operandsEarlier labels started (l :: rest) = true ↔
      l.a.available labels started = true ∧ l.b.available labels started = true ∧
        operandsEarlier (l.label :: labels) true rest = true := by
  simp only [operandsEarlier, hn, if_false, Bool.and_eq_true, and_assoc]

/-- More results, and a transaction completed, keep a script ready. -/
theorem operandsEarlier_mono {script : List ScriptLine} {labels labels' : List Nat} {started : Bool}
    (hsub : labels ⊆ labels') (h : operandsEarlier labels started script = true) :
    operandsEarlier labels' true script = true := by
  induction script generalizing labels labels' started with
  | nil => rfl
  | cons l rest ih =>
    by_cases hn : l.times = 0
    · rw [operandsEarlier_cons_of_times_zero hn] at h ⊢
      exact ih hsub h
    · rw [operandsEarlier_cons_iff hn] at h ⊢
      obtain ⟨ha, hb, hrest⟩ := h
      exact ⟨ScriptOperand.available_mono hsub ha, ScriptOperand.available_mono hsub hb,
        ih (List.cons_subset_cons _ hsub) hrest⟩

/-- One repetition of a line leaves a script that is ready with the line's result kept. -/
theorem operandsEarlier_scriptAfter {l : ScriptLine} {rest : List ScriptLine} {labels : List Nat} {started : Bool}
    (hn : l.times ≠ 0) (h : operandsEarlier labels started (l :: rest) = true) :
    operandsEarlier (l.label :: labels) true (scriptAfter l rest) = true := by
  obtain ⟨ha, hb, hrest⟩ := (operandsEarlier_cons_iff hn).1 h
  obtain ⟨k, hk⟩ := Nat.exists_eq_succ_of_ne_zero hn
  rw [scriptAfter_eq_remaining hk]
  have hsub : labels ⊆ l.label :: labels := List.subset_cons_self _ _
  cases k with
  | zero => exact hrest
  | succ k =>
    exact (operandsEarlier_cons_iff (Nat.succ_ne_zero k)).2
      ⟨ScriptOperand.available_mono hsub ha, ScriptOperand.available_mono hsub hb,
        operandsEarlier_mono (List.subset_cons_self _ _) hrest⟩

/-! ## Steps -/

theorem State.scriptReady_of_no_script {s : State} (h : s.script = []) : s.scriptReady = true := by
  simp [State.scriptReady, h, operandsEarlier]

/-- A step with no script always answers, and leaves the host as it is. -/
theorem exists_step_of_no_script {s : State} (hs : s.script = []) :
    ∃ t, step s = .next t ∧ t.script = [] ∧ t.results = s.results := by
  rw [step_of_no_script hs]
  cases hw : s.portWord with
  | none => exact ⟨s, State.transact_of_no_word hw, hs, rfl⟩
  | some T =>
    obtain ⟨a, b, hc, ha, hb, -⟩ := State.portWord_eq_some hw
    exact ⟨_, State.transact_of_ports hc ha hb, hs, rfl⟩

theorem step_of_times_zero {s : State} {l : ScriptLine} {rest : List ScriptLine} (hs : s.script = l :: rest)
    (hn : l.times = 0) : step s = .next (s.setScript rest) := by
  rw [step_of_script hs, State.runLine, if_pos hn]

theorem step_of_operands {s : State} {l : ScriptLine} {rest : List ScriptLine} {a b : Word}
    (hs : s.script = l :: rest) (hn : l.times ≠ 0) (ha : s.operandWord l.a = .next a)
    (hb : s.operandWord l.b = .next b) : step s = .next (s.afterLine l rest a b) := by
  rw [step_of_script hs, State.runLine_of_operands hn ha hb]

theorem State.exists_step_of_scriptReady {s : State} (h : s.scriptReady = true) :
    ∃ t, step s = .next t ∧ t.scriptReady = true := by
  match hs : s.script with
  | [] =>
    obtain ⟨t, ht, hscript, -⟩ := exists_step_of_no_script hs
    exact ⟨t, ht, State.scriptReady_of_no_script hscript⟩
  | l :: rest =>
    have hready : operandsEarlier (s.results.map Prod.fst) s.last.isSome (l :: rest) = true := hs ▸ h
    by_cases hn : l.times = 0
    · refine ⟨_, step_of_times_zero hs hn, ?_⟩
      rwa [operandsEarlier_cons_of_times_zero hn] at hready
    · obtain ⟨havailable_a, havailable_b, -⟩ := (operandsEarlier_cons_iff hn).1 hready
      obtain ⟨a, ha⟩ := State.available_iff.1 havailable_a
      obtain ⟨b, hb⟩ := State.available_iff.1 havailable_b
      exact ⟨_, step_of_operands hs hn ha hb, operandsEarlier_scriptAfter hn hready⟩

theorem State.neverStops_of_scriptReady {s : State} (h : s.scriptReady = true) : s.neverStops := by
  intro k
  induction k generalizing s with
  | zero => exact ⟨s, rfl⟩
  | succ k ih =>
    obtain ⟨t, ht, hready⟩ := State.exists_step_of_scriptReady h
    rw [State.run_succ, ht, andThen_next]
    exact ih hready

/-- Well-formedness is readiness at the loading, and distinct line numbers. -/
theorem State.scriptReady_load {script : List ScriptLine} (h : scriptWf script = true) :
    (State.load script).scriptReady = true := by
  rw [scriptWf, Bool.and_eq_true] at h
  exact h.1

/-! ## Lines that stop -/

theorem step_of_operand_a_fault {s : State} {l : ScriptLine} {rest : List ScriptLine} {r : Fault}
    (hs : s.script = l :: rest) (hn : l.times ≠ 0) (ha : s.operandWord l.a = .fault r) : step s = .fault r := by
  rw [step_of_script hs, State.runLine, if_neg hn, ha, andThen_fault]

theorem step_of_operand_a_refused {s : State} {l : ScriptLine} {rest : List ScriptLine} {r : Refusal}
    (hs : s.script = l :: rest) (hn : l.times ≠ 0) (ha : s.operandWord l.a = .refused r) : step s = .refused r := by
  rw [step_of_script hs, State.runLine, if_neg hn, ha, andThen_refused]

theorem step_of_operand_b_fault {s : State} {l : ScriptLine} {rest : List ScriptLine} {a : Word} {r : Fault}
    (hs : s.script = l :: rest) (hn : l.times ≠ 0) (ha : s.operandWord l.a = .next a)
    (hb : s.operandWord l.b = .fault r) : step s = .fault r := by
  rw [step_of_script hs, State.runLine, if_neg hn, ha, andThen_next, hb, andThen_fault]

theorem step_of_operand_b_refused {s : State} {l : ScriptLine} {rest : List ScriptLine} {a : Word} {r : Refusal}
    (hs : s.script = l :: rest) (hn : l.times ≠ 0) (ha : s.operandWord l.a = .next a)
    (hb : s.operandWord l.b = .refused r) : step s = .refused r := by
  rw [step_of_script hs, State.runLine, if_neg hn, ha, andThen_next, hb, andThen_refused]

/-! ## Steps with no script -/

theorem step_of_undriven {s : State} (hs : s.script = []) (hports : s.a = none ∨ s.b = none) :
    step s = .next s := by
  rw [step_of_no_script hs, State.transact_of_no_word]
  simp [State.portWord, State.pair, portPair_eq_none_iff.2 hports]

theorem step_of_changing {s : State} (hs : s.script = []) (hc : s.changing = true) : step s = .next s := by
  rw [step_of_no_script hs, State.transact_of_no_word (if_pos hc)]

/-- A table word is placed as the pair of its fields, with no script to run. -/
theorem State.withFetchWord_pair64 (s : State) (w : Nat) :
    s.withFetchWord 64 w =
      (s.present (Pair64.fieldA (BitVec.ofNat 64 w)) (Pair64.fieldB (BitVec.ofNat 64 w))).setScript [] := by
  rw [State.withFetchWord, State.onPorts, if_pos rfl]

/-! ## The obligations -/

/-- Settles O48: the host has the operands of a ready line, and the line's own result makes what remains ready. -/
theorem readyScriptStepStaysReady : Obligations.ReadyScriptStepStaysReady := fun _ h =>
  State.exists_step_of_scriptReady h

/-- Settles O49: readiness is kept along every run, and loading a well-formed script gives it. -/
theorem readyScriptNeverStops : Obligations.ReadyScriptNeverStops :=
  ⟨fun _ h => State.neverStops_of_scriptReady h, fun _ h => State.neverStops_of_scriptReady (State.scriptReady_load h)⟩

/-- Settles O29: the step on a pair whose change is over, and on a pair just placed. -/
theorem stepRunsDecodedInstruction : Obligations.StepRunsDecodedInstruction := by
  refine ⟨fun s a b hs ha hb hc => ?_, fun s w => ?_⟩
  · rw [step_of_ports hs ha hb hc, exec_decode, Pair64.fieldA_append, Pair64.fieldB_append]
  · refine ⟨_, decodeBits_pair64 w, decodeTableWord_pair64 w, ?_⟩
    rw [State.withFetchWord_pair64, exec_decode]
    exact step_of_ports rfl rfl rfl (State.not_changing (.inr rfl))

/-- Settles O30: the pair just presented is evaluated again, which changes nothing, and its y is kept. -/
theorem scriptStepRunsDecodedInstruction : Obligations.ScriptStepRunsDecodedInstruction := by
  intro s l rest a b hs hn ha hb
  refine ⟨_, exec_decode (a ++ b) _, ?_, ?_⟩
  · rw [Pair64.fieldA_append, Pair64.fieldB_append, State.present_setScript_complete]
    rfl
  · rw [Pair64.fieldA_append, Pair64.fieldB_append, State.present_setScript_complete, step_of_operands hs hn ha hb]
    rfl

/-- Settles O33: a line stops at the first operand that the host has no word for. -/
theorem unavailableOperandStops : Obligations.UnavailableOperandStops := by
  intro s l rest hs hn
  refine ⟨fun k hl hk => ?_, fun hl hlast => ?_, fun a k ha hl hk => ?_, fun a ha hl hlast => ?_⟩
  · exact step_of_operand_a_refused hs hn (hl ▸ State.operandWord_result_of_not_mem hk)
  · exact step_of_operand_a_fault hs hn (hl ▸ State.readY_eq_fault_iff.2 hlast)
  · exact step_of_operand_b_refused hs hn ha (hl ▸ State.operandWord_result_of_not_mem hk)
  · exact step_of_operand_b_fault hs hn ha (hl ▸ State.readY_eq_fault_iff.2 hlast)

/-- Settles O34: the search finds the newest result, and the read answers for the most recent pair. -/
theorem operandNamesEarlierResult : Obligations.OperandNamesEarlierResult := fun s _ y _ _ =>
  ⟨State.operandWord_result_of_newest, fun _ _ hl => State.readY_of_last hl, s.operandWord_lit y⟩

/-- Settles O35: undriven ports carry no transaction word. -/
theorem undrivenPortsIdle : Obligations.UndrivenPortsIdle := fun _ hs hports =>
  step_of_undriven hs hports

/-- Settles O36: ports in the middle of a change carry no transaction word. -/
theorem unfinishedChangeIsNoTransaction : Obligations.UnfinishedChangeIsNoTransaction := fun _ hs hc =>
  step_of_changing hs hc

end Sys2Proof.Machine
end

section
/-! Runs of the host's scripts (30_encoding.md R73): the repetitions of one line, and scripts of literal operands on
machines with different histories. -/

namespace Sys2Proof.Machine

/-! ## A repeated line -/

theorem remainingScript_eq_ite (l : ScriptLine) (rest : List ScriptLine) (k : Nat) :
    remainingScript l rest k = if k = 0 then rest else { l with times := k } :: rest := by
  cases k <;> rfl

/-- One repetition of a line: the transaction on the words of its operands. -/
theorem step_of_remaining {s : State} {l : ScriptLine} {rest : List ScriptLine} {k : Nat} {a b : Word}
    (hs : s.script = remainingScript l rest (k + 1)) (ha : s.operandWord l.a = .next a)
    (hb : s.operandWord l.b = .next b) :
    step s = .next (s.afterLine { l with times := k + 1 } rest a b) :=
  step_of_operands hs (Nat.succ_ne_zero k) ha hb

/-- A repetition leaves one less to run. -/
theorem State.afterLine_script_remaining (s : State) (l : ScriptLine) (rest : List ScriptLine) (k : Nat)
    (a b : Word) :
    (s.afterLine { l with times := k + 1 } rest a b).script = remainingScript l rest k := by
  rw [State.afterLine_script, scriptAfter_eq_remaining (k := k) rfl]
  cases k <;> rfl

/-- After `j` of `j + k` repetitions the host has kept `j` results of the line, has its operands, and has `k`
repetitions left. -/
theorem State.run_remaining {l : ScriptLine} {rest : List ScriptLine} (j k : Nat) {s : State} {a b : Word}
    (hs : s.script = remainingScript l rest (j + k)) (ha : s.operandWord l.a = .next a)
    (hb : s.operandWord l.b = .next b) :
    ∃ (u : State) (kept : List Word) (x z : Word), State.run j s = .next u ∧
      u.script = remainingScript l rest k ∧ u.operandWord l.a = .next x ∧ u.operandWord l.b = .next z ∧
      kept.length = j ∧ u.results = kept.map (fun y => (l.label, y)) ++ s.results := by
  induction j generalizing s a b with
  | zero => exact ⟨s, [], a, b, rfl, by simpa using hs, ha, hb, rfl, rfl⟩
  | succ j ih =>
    rw [Nat.succ_add] at hs
    obtain ⟨a', ha'⟩ := State.exists_operandWord_afterLine ha { l with times := j + k + 1 } rest a b
    obtain ⟨b', hb'⟩ := State.exists_operandWord_afterLine hb { l with times := j + k + 1 } rest a b
    obtain ⟨u, kept, x, z, hrun, hscript, hx, hz, hlength, hresults⟩ :=
      ih (State.afterLine_script_remaining s l rest (j + k) a b) ha' hb'
    refine ⟨u, kept ++ [addflt a b], x, z, ?_, hscript, hx, hz, by simp [hlength], by simp [hresults]⟩
    rw [State.run_succ, step_of_remaining hs ha hb, andThen_next, hrun]

/-- With literal operands each repetition is the same transaction. -/
theorem State.run_remaining_lit {l : ScriptLine} {rest : List ScriptLine} {a b : Word} (ha : l.a = .lit a)
    (hb : l.b = .lit b) (n : Nat) {s : State} (hs : s.script = remainingScript l rest (n + 1)) :
    State.run (n + 1) s = .next
      { a := some a, b := some b, y := some (addflt a b), last := some (a, b), moved := none, script := rest,
        results := List.replicate (n + 1) (l.label, addflt a b) ++ s.results } := by
  have hstep : step s = .next (s.afterLine { l with times := n + 1 } rest a b) :=
    step_of_remaining hs (by rw [ha, State.operandWord_lit]) (by rw [hb, State.operandWord_lit])
  rw [State.run_succ, hstep, andThen_next]
  cases n with
  | zero => rfl
  | succ n =>
    rw [State.run_remaining_lit ha hb n (State.afterLine_script_remaining s l rest (n + 1) a b),
      State.afterLine_results, List.replicate_succ' (n := n + 1), List.append_assoc, List.singleton_append]

/-- A line whose first operand is the previous y iterates ADDFLT on it. -/
theorem State.run_remaining_previous {l : ScriptLine} {rest : List ScriptLine} {b : Word} (ha : l.a = .previous)
    (hb : l.b = .lit b) (k : Nat) {s : State} {y : Word} (hs : s.script = remainingScript l rest k)
    (hy : s.readY = .next y) :
    ∃ t, State.run k s = .next t ∧ t.script = rest ∧ t.readY = .next ((fun x => addflt x b)^[k] y) := by
  induction k generalizing s y with
  | zero => exact ⟨s, rfl, hs, hy⟩
  | succ k ih =>
    have hstep : step s = .next (s.afterLine { l with times := k + 1 } rest y b) :=
      step_of_remaining hs (by rw [ha, State.operandWord_previous, hy]) (by rw [hb, State.operandWord_lit])
    rw [State.run_succ, hstep, andThen_next, Function.iterate_succ_apply]
    exact ih (State.afterLine_script_remaining s l rest k y b) (State.afterLine_readY ..)

/-! ## Scripts of literal operands -/

/-- Every operand of a script is a literal. -/
def literalScript (script : List ScriptLine) : Prop :=
  ∀ l ∈ script, (∃ w, l.a = .lit w) ∧ ∃ w, l.b = .lit w

theorem literalScript_scriptAfter {l : ScriptLine} {rest : List ScriptLine} (hn : l.times ≠ 0)
    (h : literalScript (l :: rest)) : literalScript (scriptAfter l rest) := by
  obtain ⟨hl, hrest⟩ := List.forall_mem_cons.1 h
  obtain ⟨k, hk⟩ := Nat.exists_eq_succ_of_ne_zero hn
  rw [scriptAfter_eq_remaining hk]
  cases k with
  | zero => exact hrest
  | succ k => exact List.forall_mem_cons.2 ⟨hl, hrest⟩

/-- One step of a literal script does the same to the hosts of any two machines. -/
theorem step_literal_agree {s s' t t' : State} (hs : s.script = s'.script) (hlit : literalScript s.script)
    (h : step s = .next t) (h' : step s' = .next t') :
    t.script = t'.script ∧ literalScript t.script ∧
      ∃ kept, t.results = kept ++ s.results ∧ t'.results = kept ++ s'.results := by
  match hscript : s.script with
  | [] =>
    obtain ⟨u, hu, huscript, huresults⟩ := exists_step_of_no_script hscript
    obtain ⟨u', hu', huscript', huresults'⟩ := exists_step_of_no_script (hs ▸ hscript)
    cases hu.symm.trans h
    cases hu'.symm.trans h'
    refine ⟨huscript.trans huscript'.symm, ?_, [], huresults, huresults'⟩
    rwa [huscript, ← hscript]
  | l :: rest =>
    have hscript' : s'.script = l :: rest := hs ▸ hscript
    rw [hscript] at hlit
    by_cases hn : l.times = 0
    · cases (step_of_times_zero hscript hn).symm.trans h
      cases (step_of_times_zero hscript' hn).symm.trans h'
      exact ⟨rfl, (List.forall_mem_cons.1 hlit).2, [], rfl, rfl⟩
    · obtain ⟨⟨a, ha⟩, b, hb⟩ := hlit l List.mem_cons_self
      have hrun : ∀ u : State, u.script = l :: rest → step u = .next (u.afterLine l rest a b) := fun u hu =>
        step_of_operands hu hn (by rw [ha, State.operandWord_lit]) (by rw [hb, State.operandWord_lit])
      cases (hrun s hscript).symm.trans h
      cases (hrun s' hscript').symm.trans h'
      exact ⟨rfl, literalScript_scriptAfter hn hlit, [(l.label, addflt a b)], rfl, rfl⟩

theorem State.run_literal_agree (k : Nat) {s s' t t' : State} (hs : s.script = s'.script)
    (hlit : literalScript s.script) (h : State.run k s = .next t) (h' : State.run k s' = .next t') :
    t.script = t'.script ∧ ∃ kept, t.results = kept ++ s.results ∧ t'.results = kept ++ s'.results := by
  induction k generalizing s s' with
  | zero =>
    cases h
    cases h'
    exact ⟨hs, [], rfl, rfl⟩
  | succ k ih =>
    obtain ⟨u, hu, hrun⟩ := andThen_eq_next h
    obtain ⟨u', hu', hrun'⟩ := andThen_eq_next h'
    obtain ⟨huscript, hulit, first, hfirst, hfirst'⟩ := step_literal_agree hs hlit hu hu'
    obtain ⟨hscript, later, hlater, hlater'⟩ := ih huscript hulit hrun hrun'
    refine ⟨hscript, later ++ first, ?_, ?_⟩
    · rw [hlater, hfirst, List.append_assoc]
    · rw [hlater', hfirst', List.append_assoc]

/-! ## The obligations -/

/-- Settles O31: the repetitions counted by `run_remaining`, the last of which leaves the rest of the script. -/
theorem repeatedLineRunsItsCount : Obligations.RepeatedLineRunsItsCount := by
  intro s l rest hs
  refine ⟨step_of_times_zero hs, fun n a b hn ha hb => ?_, fun n a b hn ha hb => ?_⟩
  · have hremaining : s.script = remainingScript l rest (n + 1) := hs.trans (cons_eq_remaining hn rest)
    constructor
    · obtain ⟨t, kept, -, -, hrun, hscript, -, -, hlength, hresults⟩ := State.run_remaining (n + 1) 0 hremaining ha hb
      exact ⟨t, kept, hrun, hscript, hlength, hresults⟩
    · intro j hj
      have hsplit : n + 1 = j + (n - j + 1) := by omega
      rw [hsplit] at hremaining
      obtain ⟨u, -, x, z, hrun, hscript, hx, hz, -, -⟩ := State.run_remaining j (n - j + 1) hremaining ha hb
      refine ⟨u, _, x, z, hrun, step_of_remaining hscript hx hz, hx, hz, rfl, rfl, ?_⟩
      have hlast : n - j = 0 ↔ j = n := by omega
      simp only [State.afterLine_script_remaining, remainingScript_eq_ite, hlast]
  · exact State.run_remaining_lit ha hb n (hs.trans (cons_eq_remaining hn rest))

/-- Settles O32: each repetition replaces the y that is read by ADDFLT of it and b. -/
theorem repeatedLineFeedsBack : Obligations.RepeatedLineFeedsBack := by
  intro s l rest n y b hs hn ha hb hy
  exact State.run_remaining_previous ha hb (n + 1) (hs.trans (cons_eq_remaining hn rest)) hy

/-- Settles O50: a step's effect on the host is read off the script alone, and so is a run's. -/
theorem resultsIndependentOfHistory : Obligations.ResultsIndependentOfHistory := fun k _ _ _ _ hs hlit h h' =>
  State.run_literal_agree k hs hlit h h'

end Sys2Proof.Machine
end

section
/-! The laws of ADDFLT (30_encoding.md R66; 40_addflt.md R85, R88, R97 to R103): what y is in terms of ea and nz, the
operand pairs for which the shifted b is known, and the values that y takes. -/

namespace Sys2Proof.Machine

/-! ## The result in terms of ea and nz (R97, R98) -/

/-- y depends on b only through nz. -/
theorem addfltWith_eq_of_nz (oor : OorShift) (a b : Word) :
    addfltWith oor a b =
      BitVec.ofInt 32 ((exponent a).toInt + if (evaluate oor a b).nz = true then 1 else 0) := by
  rw [addfltWith_eq, evaluate_y, outputExtender_eq_ofInt, evaluate_eAdj, toInt_exponentMux]
  simp only [add_ite, add_zero]

theorem toInt_addfltWith (oor : OorShift) (a b : Word) :
    (addfltWith oor a b).toInt = (exponent a).toInt + if (evaluate oor a b).nz = true then 1 else 0 := by
  rw [addfltWith_eq, evaluate_y, toInt_outputExtender, evaluate_eAdj, toInt_exponentMux]
  simp only [add_ite, add_zero]

theorem addfltWith_of_nz {oor : OorShift} {a b : Word} (h : (evaluate oor a b).nz = true) :
    addfltWith oor a b = BitVec.ofInt 32 ((exponent a).toInt + 1) := by
  rw [addfltWith_eq_of_nz, if_pos h]

theorem addfltWith_of_not_nz {oor : OorShift} {a b : Word} (h : (evaluate oor a b).nz = false) :
    addfltWith oor a b = BitVec.ofInt 32 (exponent a).toInt := by
  rw [addfltWith_eq_of_nz, if_neg (by simp [h]), add_zero]

theorem addfltWith_congr_nz {p q : OorShift} {a b b' : Word} (h : (evaluate p a b).nz = (evaluate q a b').nz) :
    addfltWith p a b = addfltWith q a b' := by
  rw [addfltWith_eq_of_nz, addfltWith_eq_of_nz, h]

theorem toNat_sum (oor : OorShift) (a b : Word) :
    (evaluate oor a b).sum.toNat = (a.toNat + (evaluate oor a b).mb.toNat) % 2 ^ 32 := by
  rw [evaluate_sum, toNat_adder]

theorem sum_eq_zero_iff (oor : OorShift) (a b : Word) :
    (evaluate oor a b).sum = 0#32 ↔ (a.toNat + (evaluate oor a b).mb.toNat) % 2 ^ 32 = 0 := by
  rw [← BitVec.toNat_inj, toNat_sum, BitVec.toNat_zero]

theorem nz_eq_false_iff (oor : OorShift) (a b : Word) :
    (evaluate oor a b).nz = false ↔ (a.toNat + (evaluate oor a b).mb.toNat) % 2 ^ 32 = 0 := by
  rw [evaluate_nz, zeroDetector_eq_false_iff, sum_eq_zero_iff]

theorem nz_eq_true_iff (oor : OorShift) (a b : Word) :
    (evaluate oor a b).nz = true ↔ (a.toNat + (evaluate oor a b).mb.toNat) % 2 ^ 32 ≠ 0 := by
  rw [evaluate_nz_iff, ne_eq, sum_eq_zero_iff]

/-! ## The datapath in integers -/

theorem toNat_byte (w : Word) : (w >>> 24).toNat = w.toNat / 2 ^ 24 := by
  rw [BitVec.toNat_ushiftRight, Nat.shiftRight_eq_div_pow]

/-- The shifted b of this hardware as a number, for a delta read from the two words. -/
theorem toNat_mb_satBidir (a b : Word) {delta : Int}
    (h : delta = ((a.toNat / 2 ^ 24 : Nat) : Int) - ((b.toNat / 2 ^ 24 : Nat) : Int)) :
    (evaluate satBidirOor a b).mb.toNat =
      if 0 ≤ delta ∧ delta ≤ 31 then b.toNat / 2 ^ delta.toNat
      else if -31 ≤ delta ∧ delta ≤ -1 then b.toNat * 2 ^ (-delta).toNat % 2 ^ 32
      else 0 := by
  rw [evaluate_mb, toNat_shifter_satBidir, toInt_delta_eq_bytes, toNat_byte, toNat_byte, h]

/-- ADDFLT of this hardware from the number of the shifted b. -/
theorem addflt_eq_of_toNat_mb {a b : Word} {mb : Nat} (h : (evaluate satBidirOor a b).mb.toNat = mb) :
    addflt a b = BitVec.ofInt 32
      (((a.toNat / 2 ^ 24 : Nat) : Int) - 128 + if (a.toNat + mb) % 2 ^ 32 = 0 then 0 else 1) := by
  rw [addflt_eq, addfltWith_eq_of_nz, toInt_exponent_eq_byte, toNat_byte]
  simp only [nz_eq_true_iff, h, ne_eq, ite_not]

/-! ## Where the shifted b is known -/

theorem evaluate_mb_of_delta_zero {oor : OorShift} {a b : Word} (h : (evaluate oor a b).delta.toInt = 0) :
    (evaluate oor a b).mb = b := by
  rw [evaluate_mb_of_inRange (by omega) (by omega), h]
  exact BitVec.ushiftRight_zero b

theorem toInt_delta_of_exponentField_eq {oor : OorShift} {a b : Word} (h : exponentField a = exponentField b) :
    (evaluate oor a b).delta.toInt = 0 := by
  rw [toInt_delta_eq_bytes, ← toNat_exponentField, ← toNat_exponentField, h, Int.sub_self]

theorem evaluate_mb_of_saturated {a b : Word} (h : 32 ≤ (evaluate satBidirOor a b).delta.toInt.natAbs) :
    (evaluate satBidirOor a b).mb = 0#32 := by
  rw [evaluate_mb, shifter_satBidir_of_saturated h]

/-- A zero is shifted to zero. -/
theorem evaluate_mb_of_b_zero (a : Word) : (evaluate satBidirOor a 0#32).mb = 0#32 := by
  rw [evaluate_mb, ← BitVec.toNat_inj, toNat_shifter_satBidir]
  split_ifs <;> simp

/-- With nothing added, the sum is a. -/
theorem sum_of_mb_zero {oor : OorShift} {a b : Word} (h : (evaluate oor a b).mb = 0#32) :
    (evaluate oor a b).sum = a := by
  rw [evaluate_sum, h, adder, BitVec.add_zero]

theorem nz_of_mb_zero {oor : OorShift} {a b : Word} (h : (evaluate oor a b).mb = 0#32) :
    (evaluate oor a b).nz = true ↔ a ≠ 0#32 := by
  rw [evaluate_nz_iff, sum_of_mb_zero h]

theorem addfltWith_of_mb_zero {oor : OorShift} {a b : Word} (h : (evaluate oor a b).mb = 0#32) :
    addfltWith oor a b = BitVec.ofInt 32 ((exponent a).toInt + if a ≠ 0#32 then 1 else 0) := by
  rw [addfltWith_eq_of_nz]
  simp only [nz_of_mb_zero h]

theorem ne_zero_of_exponent {a : Word} (h : -128 < (exponent a).toInt) : a ≠ 0#32 := by
  rintro rfl
  exact absurd h (by decide)

theorem toNat_lt_of_exponentField_zero {w : Word} (h : exponentField w = 0#8) : w.toNat < 2 ^ 24 := by
  have hbyte : w.toNat >>> 24 = 0 := by
    rw [← BitVec.toNat_ushiftRight, ← toNat_exponentField, h, BitVec.toNat_zero]
  omega

theorem toInt_exponent_of_field_zero {w : Word} (h : exponentField w = 0#8) : (exponent w).toInt = -128 := by
  rw [toInt_exponent, h]
  rfl

/-! ## The values of y (R66) -/

/-- A bit of the output is that bit of e_adj, or a copy of the sign above it. -/
theorem getElem_outputExtender (e : S9) (k : Nat) (hk : k < 32) :
    (outputExtender e)[k] = if h : k < 9 then e[k] else e.msb :=
  BitVec.getElem_signExtend hk

theorem getElem_signWord {n : Nat} (sign : Bool) (k : Nat) (hk : k < n) :
    (if sign = true then BitVec.allOnes n else 0#n)[k] = sign := by
  cases sign <;> simp

theorem gateOutput_eq_outputExtender (e : S9) : gateOutput e = outputExtender e := by
  ext k hk
  rw [gateOutput, ← BitVec.msb_eq_getLsbD_last, BitVec.getElem_append, getElem_outputExtender]
  split
  · rfl
  · exact getElem_signWord ..

theorem extractLsb'_outputExtender_low (e : S9) : (outputExtender e).extractLsb' 0 9 = e := by
  rw [← gateOutput_eq_outputExtender]
  exact BitVec.extractLsb'_append_eq_right

/-- The bits from the sign bit of e_adj upward are copies of it. -/
theorem extractLsb'_outputExtender_high (e : S9) :
    (outputExtender e).extractLsb' 8 24 = if e.toInt < 0 then BitVec.allOnes 24 else 0#24 := by
  have hsign : e.toInt < 0 ↔ e.msb = true := by rw [BitVec.msb_eq_toInt, decide_eq_true_iff]
  simp only [hsign]
  ext k hk
  rw [BitVec.getElem_extractLsb', BitVec.getLsbD_eq_getElem (by omega), getElem_outputExtender, getElem_signWord]
  split
  · obtain rfl : k = 0 := by omega
    exact (BitVec.msb_eq_getLsbD_last e).symm
  · rfl

/-- An exponent with room below it is reached by the increment, from a nonzero a and b = 0. -/
theorem addflt_of_exponent_above {e : Int} (hlo : -127 ≤ e) (hhi : e ≤ 128) :
    addflt (BitVec.ofNat 32 ((e + 127).toNat * 2 ^ 24 + 1)) 0#32 = BitVec.ofInt 32 e := by
  obtain ⟨n, hn⟩ : ∃ n : Nat, e + 127 = n := ⟨(e + 127).toNat, by omega⟩
  rw [hn, Int.toNat_natCast]
  have hnat : (BitVec.ofNat 32 (n * 2 ^ 24 + 1)).toNat = n * 2 ^ 24 + 1 := by
    rw [BitVec.toNat_ofNat]
    omega
  have hnonzero : BitVec.ofNat 32 (n * 2 ^ 24 + 1) ≠ 0#32 := by
    rw [ne_eq, ← BitVec.toNat_inj, hnat, BitVec.toNat_zero]
    omega
  have hexp : (exponent (BitVec.ofNat 32 (n * 2 ^ 24 + 1))).toInt = e - 1 := by
    rw [toInt_exponent_eq_byte, BitVec.toNat_ushiftRight, hnat]
    omega
  rw [addflt_eq, addfltWith_of_mb_zero (evaluate_mb_of_b_zero _), if_pos hnonzero, hexp, Int.sub_add_cancel]

/-- Every exponent-shaped word is some y: the least one with both words zero, the others by the increment. -/
theorem exists_addflt_eq {y : Word} (hy : y.toNat ≤ 0x80 ∨ 0xFFFFFF80 ≤ y.toNat) :
    ∃ a b : Word, addflt a b = y := by
  have hrange : -128 ≤ y.toInt ∧ y.toInt ≤ 128 := by
    rw [BitVec.toInt_eq_toNat_cond]
    split <;> omega
  by_cases hlow : y.toInt = -128
  · refine ⟨0#32, 0#32, BitVec.eq_of_toInt_eq ?_⟩
    rw [hlow]
    decide
  · refine ⟨_, _, (addflt_of_exponent_above (e := y.toInt) (by omega) hrange.2).trans ?_⟩
    exact BitVec.ofInt_toInt

/-! ## MASK5 (R88) -/

theorem toNat_low5_eq_emod (delta : S9) : ((delta.extractLsb' 0 5).toNat : Int) = delta.toInt % 32 := by
  rw [BitVec.extractLsb'_toNat, BitVec.toInt_eq_toNat_cond]
  split <;> omega

/-- In range delta mod 32 is delta, so MASK5 shifts by it everywhere. -/
theorem shifter_mask5 (mb0 : Word) (delta : S9) : shifter mask5Oor mb0 delta = mb0 >>> (delta.toInt % 32).toNat := by
  by_cases h : 0 ≤ delta.toInt ∧ delta.toInt ≤ 31
  · rw [shifter_of_inRange h, Int.emod_eq_of_lt h.1 (by omega)]
  · rw [shifter_of_outOfRange h, mask5Oor, ← toNat_low5_eq_emod, Int.toNat_natCast]

/-! ## The obligations -/

/-- Settles O5: the bias cancels in the difference of the exponents. -/
theorem deltaIsByteDifference : Obligations.DeltaIsByteDifference :=
  toInt_delta_eq_bytes

/-- Settles O8: the low five bits of delta are delta mod 32, which is delta itself in range. -/
theorem mask5ShiftsByDeltaMod32 : Obligations.Mask5ShiftsByDeltaMod32 :=
  ⟨fun mb0 delta =>
    ⟨shifter_mask5 mb0 delta, toNat_low5_eq_emod delta, fun h0 h31 => shifter_of_inRange ⟨h0, h31⟩⟩, by decide⟩

/-- Settles O11: the datapath in integers, and the fields that completing a pair writes. -/
theorem addfltGivesIntegerResult : Obligations.AddfltGivesIntegerResult := by
  intro a b s delta mb y t
  have hy : addflt a b = y := addflt_eq_of_toNat_mb (toNat_mb_satBidir a b rfl)
  refine ⟨?_, by rw [← hy]; rfl⟩
  simp only [exec_addflt, State.complete, State.holds_iff, hy, t]

/-- Settles O15: y is ea plus nz, as a pattern and as a signed value. -/
theorem resultIsOneOfTwo : Obligations.ResultIsOneOfTwo := by
  intro oor a b b'
  have hsigned := toInt_addfltWith oor a b
  refine ⟨?_, addfltWith_congr_nz, ?_⟩
  · cases hnz : (evaluate oor a b).nz with
    | false => exact .inl (addfltWith_of_not_nz hnz)
    | true => exact .inr (addfltWith_of_nz hnz)
  · split at hsigned <;> omega

/-- Settles O16: the sum wraps to zero exactly when the shifted b is what a lacks to 2^32. -/
theorem notIncrementedIffNegation : Obligations.NotIncrementedIffNegation := by
  intro oor a b
  have hnz := nz_eq_false_iff oor a b
  have hmb := (evaluate oor a b).mb.isLt
  refine ⟨hnz.trans ⟨fun h => ?_, fun h => ?_⟩, ?_⟩
  · omega
  · omega
  · rintro rfl
    rw [hnz, ← BitVec.toNat_inj, BitVec.toNat_zero]
    omega

/-- Settles O17: a saturated shift leaves nothing of b, and only a = 0 then has the sum zero. -/
theorem saturatedShiftLeavesA : Obligations.SaturatedShiftLeavesA := by
  refine ⟨fun a b => ?_, fun a => ne_zero_of_exponent, by decide, by decide⟩
  intro n hsat
  have hmb : (evaluate satBidirOor a b).mb = 0#32 := evaluate_mb_of_saturated hsat
  have hy := addfltWith_of_mb_zero hmb
  refine ⟨hmb, sum_of_mb_zero hmb, nz_of_mb_zero hmb, hy, fun hea => ?_⟩
  rw [if_pos (ne_zero_of_exponent hea)] at hy
  exact hy

/-- Settles O18: two words below 2^24 are added without wrapping, and the exponent of a is the least one. -/
theorem bothExponentFieldsZero : Obligations.BothExponentFieldsZero := by
  intro oor a b ha hb
  have hea := toInt_exponent_of_field_zero ha
  have hdelta := toInt_delta_of_exponentField_eq (oor := oor) (ha.trans hb.symm)
  have hmb := evaluate_mb_of_delta_zero hdelta
  have halt := toNat_lt_of_exponentField_zero ha
  have hblt := toNat_lt_of_exponentField_zero hb
  have hnz : (evaluate oor a b).nz = true ↔ a ≠ 0#32 ∨ b ≠ 0#32 := by
    rw [nz_eq_true_iff, hmb]
    simp only [ne_eq, ← BitVec.toNat_inj, BitVec.toNat_zero]
    omega
  refine ⟨by rw [evaluate_ea, hea], by rw [evaluate_eb, toInt_exponent_of_field_zero hb], hdelta, hmb, halt, hblt,
    ?_, hnz, ?_⟩
  · rw [toNat_sum, hmb]
    omega
  · rw [addfltWith_eq_of_nz, hea]
    simp only [hnz]
    by_cases hzero : a = 0#32 ∧ b = 0#32
    · simp [hzero]
    · simp [hzero, not_and_or.1 hzero]

/-- Settles O19: nothing is shifted, and twice a is a multiple of 2^32 for two words only. -/
theorem sameWordOnBothPorts : Obligations.SameWordOnBothPorts := by
  refine ⟨fun oor a => ?_, by decide, by decide⟩
  have hdelta := toInt_delta_of_exponentField_eq (oor := oor) (rfl : exponentField a = exponentField a)
  have hmb := evaluate_mb_of_delta_zero hdelta
  have hsum : (evaluate oor a a).sum.toNat = 2 * a.toNat % 2 ^ 32 := by rw [toNat_sum, hmb, Nat.two_mul]
  have hzero : (evaluate oor a a).sum = 0#32 ↔ a = 0#32 ∨ a = 0x80000000#32 := by
    rw [← BitVec.toNat_inj, ← BitVec.toNat_inj, ← BitVec.toNat_inj, hsum]
    have hlt := a.isLt
    simp only [BitVec.toNat_ofNat]
    omega
  refine ⟨hdelta, hmb, hsum, hzero, fun h0 h8 => addfltWith_of_nz ?_⟩
  rw [evaluate_nz_iff, ne_eq, hzero]
  exact not_or.2 ⟨h0, h8⟩

/-- Settles O20: the spec's example and its swap, evaluated. -/
theorem notCommutative : Obligations.NotCommutative := by
  unfold Obligations.NotCommutative
  decide

/-- Settles O21: in range the shifted b is the same under both policies; out of range y is still ea plus nz. -/
theorem policyIndependence : Obligations.PolicyIndependence := by
  intro p q a b
  refine ⟨fun h0 h31 => ?_, addfltWith_congr_nz, ?_⟩
  · have hmb : (evaluate p a b).mb = (evaluate q a b).mb :=
      (evaluate_mb_of_inRange h0 h31).trans (evaluate_mb_of_inRange (oor := q) h0 h31).symm
    rw [addfltWith_eq_ofInt, addfltWith_eq_ofInt, hmb]
  · rw [toInt_addfltWith, toInt_addfltWith]
    split_ifs <;> omega

/-- Settles O22: y is the sign extension of e_adj, and every e_adj in its range occurs. -/
theorem resultValueSet : Obligations.ResultValueSet :=
  ⟨fun oor a b =>
    ⟨toNat_addfltWith_shape oor a b, extractLsb'_outputExtender_high _, extractLsb'_outputExtender_low _⟩,
    fun _ hy => exists_addflt_eq hy⟩

end Sys2Proof.Machine
end

section
/-! The gate-level block (30_encoding.md R63; 40_addflt.md R81, R91): its remaining units, and the whole of it. -/

namespace Sys2Proof.Machine

theorem gateExponent_eq_exponent (w : Word) : gateExponent w = exponent w :=
  (exponent_eq_xor w).symm

theorem gateZeroDetector_eq_zeroDetector (sum : Word) : gateZeroDetector sum = zeroDetector sum := by
  rw [Bool.eq_iff_iff, zeroDetector_eq_true_iff, ne_zero_iff_exists_getLsbD]
  simp [gateZeroDetector]

/-! ## The obligation -/

/-- Settles O51: each gate-level unit computes what the unit of the datapath does. -/
theorem gateLevelBlockIsAddflt : Obligations.GateLevelBlockIsAddflt := by
  intro a b
  have hdelta : BitVec.cons (exponent a).msb (exponent a) - BitVec.cons (exponent b).msb (exponent b) =
      (evaluate satBidirOor a b).delta := by
    rw [cons_msb_eq_signExtend, cons_msb_eq_signExtend, evaluate_delta, exponentDifference]
  simp only [gateAddflt, gateExponent_eq_exponent, hdelta]
  rw [gateOutput_eq_outputExtender, gateExponentMux_eq, gateZeroDetector_eq_zeroDetector,
    ← shifter_satBidir_eq_gateShifter, ← evaluate_mb]
  rw [addflt_eq, addfltWith_eq, evaluate_y, evaluate_eAdj, evaluate_nz, evaluate_sum, adder]

end Sys2Proof.Machine
end

section
/-! The written form (30_encoding.md R72, R73): each reader undoes its writer and gives back the text that follows. -/

namespace Sys2Proof.Machine

/-! ## Fixed parts -/

@[simp] theorem readPrefix_append (p cs : List Char) : readPrefix p (p ++ cs) = some cs := by
  induction p with
  | nil => rfl
  | cons c p ih => rw [List.cons_append, readPrefix, if_pos rfl, ih]

/-! ## Literals -/

theorem hexValue_hexDigit (d : BitVec 4) : hexValue (hexDigit d) = some d := by
  revert d
  decide

/-- The digit at bit `k` below what stands above it is the word from bit `k` upward. -/
theorem ushiftRight_shiftLeft_or_digit (w : Word) (k : Nat) :
    (w >>> (k + 4)) <<< 4 ||| (w.extractLsb' k 4).setWidth 32 = w >>> k := by
  ext i hi
  by_cases hlow : i < 4
  · simp [hlow]
  · have hsum : k + 4 + (i - 4) = k + i := by omega
    simp [hlow, hsum]

/-- Reading the digit at bit `k` after those above it. -/
theorem readDigits_hexDigit (w : Word) (n k : Nat) (cs : List Char) :
    readDigits (n + 1) (w >>> (k + 4)) (hexDigit (w.extractLsb' k 4) :: cs) = readDigits n (w >>> k) cs := by
  rw [readDigits, hexValue_hexDigit]
  exact congrArg (readDigits n · cs) (ushiftRight_shiftLeft_or_digit w k)

theorem readWord_renderWord (w : Word) (cs : List Char) : readWord (renderWord w ++ cs) = some (w, cs) := by
  have hstart : 0#32 = w >>> 32 := (BitVec.ushiftRight_eq_zero (Nat.le_refl 32)).symm
  have hhead : readPrefix ['0', 'x'] (renderWord w ++ cs) = some ((renderWord w).drop 2 ++ cs) := rfl
  rw [readWord, hhead, hstart]
  simp only [renderWord, List.drop_succ_cons, List.drop_zero, List.cons_append, List.nil_append]
  rw [readDigits_hexDigit w 7 28, readDigits_hexDigit w 6 24, readDigits_hexDigit w 5 20, readDigits_hexDigit w 4 16,
    readDigits_hexDigit w 3 12, readDigits_hexDigit w 2 8, readDigits_hexDigit w 1 4, readDigits_hexDigit w 0 0,
    readDigits, BitVec.ushiftRight_zero]

theorem readInstr_renderInstr (i : Instr) : readInstr (renderInstr i) = some i := by
  cases i with
  | addflt a b =>
    have hb : readWord (renderWord b) = some (b, []) := by simpa using readWord_renderWord b []
    simp only [readInstr, renderInstr, List.append_assoc, readPrefix_append, readWord_renderWord, hb,
      Option.bind_eq_bind, Option.bind_some, if_true]

/-! ## Numbers -/

/-- A text in which no number goes on: it does not begin with a decimal digit. -/
def endsNumber (cs : List Char) : Prop := ∀ c ∈ cs.head?, decimalValue c = none

theorem endsNumber_nil : endsNumber [] := by simp [endsNumber]

theorem endsNumber_cons {c : Char} (cs : List Char) (h : decimalValue c = none) : endsNumber (c :: cs) := by
  simpa [endsNumber] using h

theorem decimalValue_hexDigit {n : Nat} (h : n < 10) : decimalValue (hexDigit (BitVec.ofNat 4 n)) = some n := by
  revert n
  decide

theorem readDecimal_of_endsNumber (acc : Nat) {cs : List Char} (h : endsNumber cs) :
    readDecimal acc cs = (acc, cs) := by
  cases cs with
  | nil => rfl
  | cons c cs => rw [readDecimal, h c rfl]

theorem readDecimal_hexDigit (acc : Nat) {d : Nat} (h : d < 10) (cs : List Char) :
    readDecimal acc (hexDigit (BitVec.ofNat 4 d) :: cs) = readDecimal (acc * 10 + d) cs := by
  rw [readDecimal, decimalValue_hexDigit h]

/-- Reading the digits of `n` is reading on with `n` read: the last digit follows those of `n / 10`. -/
theorem readDecimal_decimalDigits {fuel n : Nat} (h : n < fuel) (cs : List Char) :
    readDecimal 0 (decimalDigits fuel n ++ cs) = readDecimal n cs := by
  induction fuel generalizing n cs with
  | zero => omega
  | succ fuel ih =>
    rw [decimalDigits]
    split
    · next hsmall => rw [List.singleton_append, readDecimal_hexDigit 0 hsmall, Nat.zero_mul, Nat.zero_add]
    · rw [List.append_assoc, ih (by omega), List.singleton_append, readDecimal_hexDigit _ (by omega),
        Nat.div_add_mod']

theorem decimalDigits_head {fuel n : Nat} (h : n < fuel) :
    ∃ c cs, decimalDigits fuel n = c :: cs ∧ (decimalValue c).isSome = true := by
  induction fuel generalizing n with
  | zero => omega
  | succ fuel ih =>
    rw [decimalDigits]
    split
    · next hsmall => exact ⟨_, [], rfl, by rw [decimalValue_hexDigit hsmall]; rfl⟩
    · obtain ⟨c, cs, hdigits, hc⟩ := ih (n := n / 10) (by omega)
      exact ⟨c, _, by rw [hdigits, List.cons_append], hc⟩

theorem readNat_renderNat (n : Nat) {cs : List Char} (h : endsNumber cs) :
    readNat (renderNat n ++ cs) = some (n, cs) := by
  obtain ⟨c, ds, hdigits, hc⟩ := decimalDigits_head (Nat.lt_succ_self n)
  have hread := readDecimal_decimalDigits (Nat.lt_succ_self n) cs
  rw [renderNat, Nat.succ_eq_add_one] at *
  rw [hdigits, List.cons_append] at hread ⊢
  rw [readNat, if_pos hc, hread, readDecimal_of_endsNumber n h]

theorem readNat_of_endsNumber {cs : List Char} (h : endsNumber cs) : readNat cs = none := by
  cases cs with
  | nil => rfl
  | cons c cs => rw [readNat, h c rfl]; rfl

/-! ## Script lines -/

theorem readOperand_renderOperand (o : ScriptOperand) {cs : List Char} (h : endsNumber cs) :
    readOperand (renderOperand o ++ cs) = some (o, cs) := by
  cases o with
  | lit w =>
    have hdigit : readOperand (renderWord w ++ cs) =
        (readWord (renderWord w ++ cs)).map fun r => (.lit r.1, r.2) := rfl
    rw [renderOperand, hdigit, readWord_renderWord, Option.map_some]
  | result k => simp only [renderOperand, List.cons_append, readOperand, readNat_renderNat k h]
  | previous => simp only [renderOperand, List.cons_append, List.nil_append, readOperand, readNat_of_endsNumber h]

/-- The end of a written line: nothing for a line that runs once, otherwise the repeat. -/
def renderRepeat (n : Nat) : List Char :=
  if n = 1 then [] else [' ', 'r', 'e', 'p', 'e', 'a', 't', ' '] ++ renderNat n

theorem endsNumber_renderRepeat (n : Nat) : endsNumber (renderRepeat n) := by
  unfold renderRepeat
  split
  · exact endsNumber_nil
  · exact endsNumber_cons _ rfl

theorem readRepeat_renderRepeat (n : Nat) : readRepeat (renderRepeat n) = some n := by
  by_cases hn : n = 1
  · rw [renderRepeat, if_pos hn, readRepeat, if_pos rfl, hn]
  · have hnat : readNat (renderNat n) = some (n, []) := by simpa using readNat_renderNat n endsNumber_nil
    rw [renderRepeat, if_neg hn, readRepeat, if_neg (by simp)]
    simp only [readPrefix_append, hnat, Option.bind_eq_bind, Option.bind_some, if_true]

/-- A written line, part by part. -/
theorem renderLine_eq (l : ScriptLine) :
    renderLine l = ['t'] ++ (renderNat l.label ++ ([':', ' ', 'A', 'D', 'D', 'F', 'L', 'T', ' ', 'y'] ++
      (renderNat l.label ++ ([',', ' '] ++ (renderOperand l.a ++ ([',', ' '] ++ (renderOperand l.b ++
        renderRepeat l.times))))))) := by
  simp only [renderLine, renderRepeat, List.append_assoc, List.cons_append, List.nil_append]

theorem readLine_renderLine (l : ScriptLine) : readLine (renderLine l) = some l := by
  have hcolon (cs : List Char) :
      readNat (renderNat l.label ++ ([':', ' ', 'A', 'D', 'D', 'F', 'L', 'T', ' ', 'y'] ++ cs)) =
        some (l.label, [':', ' ', 'A', 'D', 'D', 'F', 'L', 'T', ' ', 'y'] ++ cs) :=
    readNat_renderNat l.label (endsNumber_cons _ rfl)
  have hcomma (cs : List Char) : endsNumber ([',', ' '] ++ cs) := endsNumber_cons _ rfl
  rw [renderLine_eq, readLine]
  simp only [readPrefix_append, hcolon, readNat_renderNat _ (hcomma _), readOperand_renderOperand _ (hcomma _),
    readOperand_renderOperand _ (endsNumber_renderRepeat _), readRepeat_renderRepeat, Option.bind_eq_bind,
    Option.bind_some, if_true]

/-! ## The obligation -/

/-- Settles O28: every part of the written form is read back, and a number ends where the next part begins. -/
theorem writtenFormReadsBack : Obligations.WrittenFormReadsBack :=
  ⟨readInstr_renderInstr, readLine_renderLine⟩

end Sys2Proof.Machine
end
